-- ==== Sys2Proof/Word.lean ====
section
/-! DEFINITION. The word types of CANBF: host accesses and commands are 32 bits wide, data bytes 8, addresses 12
(20_memory R60, R61). Numbers that only count or index (TQ lengths, list indices) are `Nat`. -/

namespace Sys2Proof

/-- A 32-bit register value or command word (10_state R22, 30_encoding R90). -/
abbrev Word := BitVec 32

/-- One byte of a frame slot's data buffer (10_state R35). -/
abbrev Byte := BitVec 8

/-- A byte address of the register space, 0x000 to 0xFFF (20_memory R60). -/
abbrev Addr := BitVec 12

end Sys2Proof
end

