-- ==== Sys2Proof/Config.lean ====
section
/-! DEFINITION. What an implementation of CANBF fixes: the parameters of 00_scope R8, as one record a machine is given,
with the values that rule decides; how many slots the command word can name; and the free values of the spec (its `draw`s,
00_scope R13), which no proof can see. -/

namespace Sys2Proof

/-- The bit-frame slots the 2-bit fields `BF` and `BF2` can name (00_scope R8, 30_encoding R90). -/
abbrev Config.bfNames : Nat := 4

/-- The frame slots the 1-bit field `FS` can name (00_scope R8, 30_encoding R90). -/
abbrev Config.frameNames : Nat := 2

/-- The bytes of a frame slot's data buffer that the data window and the commands reach (20_memory R63, R64). -/
abbrev Config.windowBytes : Nat := 64

/-- The parameters a model takes (00_scope R8, 10_state R21, 93 I10). A machine is given one such record, which no step
changes (log entry 8). -/
structure Config.Params where
  /-- `BF_SLOTS`: the number of bit-frame slots. -/
  bfSlots : Nat
  /-- `FRAME_SLOTS`: the number of frame slots. -/
  frameSlots : Nat
  /-- `MAX_BITS`: the most bit records a bit-frame slot holds. -/
  maxBits : Nat
  /-- `MAX_TQ_PER_PHASE`: the most time quanta one phase of one bit holds. -/
  maxTqPerPhase : Nat
  /-- `MAX_TQ_CYCLES`: the greatest length of one time quantum in clock cycles. -/
  maxTqCycles : Nat
  /-- `DATA_BYTES`: the bytes of a frame slot's data buffer. -/
  dataBytes : Nat
  /-- The width in bits of each of `prop`, `ph1`, `ph2`, `sjw` and `brp`. -/
  timingWidth : Nat
  deriving DecidableEq, Repr

/-- The values 00_scope R8 decides for the hardware. -/
def Config.Params.standard : Config.Params where
  bfSlots := 4
  frameSlots := 2
  maxBits := 4096
  maxTqPerPhase := 255
  maxTqCycles := 65535
  dataBytes := 64
  timingWidth := 8

/-- The bytes of a data buffer beyond the 64 of the data window. -/
def Config.Params.spareBytes (p : Config.Params) : Nat :=
  p.dataBytes - Config.windowBytes

/-- The value of the `k`-th draw, taken at width `n`: the spec's `draw(n)`, "a free input of the step, with no law on it"
(00_scope R13, 10_state R21, 92 D20). Opaque: a statement that mentions it holds for every value. Log entry 4. -/
opaque Config.draw (n k : Nat) : BitVec n

/-- The value of the `k`-th draw when it is "a draw in 0 .. len-1" (43_queries R267): the user reduces it modulo `len`.
Opaque, as `Config.draw`. Log entry 6. -/
opaque Config.drawIndex (k : Nat) : Nat

/-- Free value `k` for a timing field that an operand does not fit, in a block with fields of fewer than 8 bits: no rule states
it, so the user only cuts it to the width (00_scope R8). Opaque, as `Config.draw`. DESIGN CHOICE, log entry 20. -/
opaque Config.wideField (k : Nat) : BitVec 8

end Sys2Proof
end

