-- ==== Sys2Proof/Syntax.lean ====
section
/-! DEFINITION. The commands of CANBF as syntax: bit values, field tags, phases, stuff-kind selectors, the command-word
format C32 as a record of its fields, and `Instr`, one constructor per row of spec/opcode_table.json. -/

namespace Sys2Proof

/-- A bit value (00_scope R12). The encoding, Dominant 0 and Recessive 1, is `Level.bit` in Decode.lean. -/
inductive Level where
  | dominant
  | recessive
  deriving DecidableEq, Repr

/-- A protocol field tag, in the order of its codes 0..27 (30_encoding R95). -/
inductive Tag where
  | sof | baseIdentifier | identifierExtension | rtr | srr | ide | edl | r0 | r1 | brs | esi | dlc | data | stuffCount
  | stuffParity | crc | crcDelimiter | ack | ackDelimiter | eof | intermission | suspend | idle | activeErrorFlag
  | passiveErrorFlag | errorDelimiter | overloadFlag | overloadDelimiter
  deriving DecidableEq, Repr

/-- A phase of a bit, in time order, codes 0..3 (30_encoding R96). -/
inductive Phase where
  | sync | prop | ph1 | ph2
  deriving DecidableEq, Repr

/-- The stuff-kind selector of GET_STUFF_BIT and GET_NUM_STUFF, codes 0..2 (30_encoding R97). -/
inductive KindSel where
  | any | regular | fixed
  deriving DecidableEq, Repr

/-- A bit-frame slot number, the 2-bit fields `BF` and `BF2` (30_encoding R90). -/
abbrev BfIx := Fin Config.bfNames

/-- A frame slot number, the 1-bit field `FS` (30_encoding R90). -/
abbrev FsIx := Fin Config.frameNames

/-- The fields of the one command format C32, most significant first (30_encoding R90). -/
structure C32 where
  opc   : BitVec 6
  bf    : BitVec 2 := 0
  bf2   : BitVec 2 := 0
  fs    : BitVec 1 := 0
  flag  : BitVec 1 := 0
  vsel  : BitVec 1 := 0
  val   : BitVec 1 := 0
  kind  : BitVec 2 := 0
  fsel  : BitVec 1 := 0
  field : BitVec 5 := 0
  phase : BitVec 2 := 0
  rsv   : BitVec 8 := 0
  deriving DecidableEq, Repr

/-- Why the decoder refuses a command word (30_encoding R91, R94, R95, R97). The error each one raises is
`DecodeError.err` in Machine/Ops.lean: `E_OPC` for the first, `E_ARG` for the others. -/
inductive DecodeError where
  /-- an opcode the map does not list (R94) -/
  | reservedOpcode
  /-- a non-zero field the command does not use, or a non-zero `RSV` (R91) -/
  | unusedNonZero
  /-- `FSEL` = 0 with `FIELD` ≠ 0 (R91) -/
  | fieldWithoutFsel
  /-- `FSEL` = 0 where the field operand is mandatory (R91) -/
  | fieldMissing
  /-- `VSEL` = 0 with `VAL` = 1 where `VAL` is a filter (R91) -/
  | valWithoutVsel
  /-- `FSEL` = 1 with `FIELD` ≥ 28 (R95) -/
  | reservedTag
  /-- `KIND` = 3 (R97) -/
  | reservedKind
  deriving DecidableEq, Repr

/-- A command: one constructor per row of the opcode map (30_encoding R93), in its order. `bf` is the target bit-frame
slot, `bf2` the source slot, `fs` the frame slot; an optional field operand (`FSEL`, `FIELD`) and an optional value filter
(`VSEL`, `VAL`) are options. The argument registers are not part of the syntax: a command reads them when it runs (R92). -/
inductive Instr where
  | nop
  | setNbt
  | setDbt
  | setFlags (fs : FsIx)
  | setDlc (fs : FsIx)
  | setDlen (fs : FsIx)
  | setId (fs : FsIx)
  | randomize (fs : FsIx)
  | frameEq
  | dlcToLen (flag : Bool)
  | lenToDlc (flag : Bool)
  | build (bf : BfIx) (fs : FsIx)
  | update (bf : BfIx) (flag : Bool)
  | readLen (bf : BfIx)
  | readBit (bf : BfIx)
  | readTq (bf : BfIx)
  | readCycle (bf : BfIx)
  | bitCycles (bf : BfIx)
  | getBitOf (bf : BfIx) (field : Tag)
  | getBitOfNs (bf : BfIx) (field : Tag)
  | getRandomBitOf (bf : BfIx) (field : Tag) (val : Option Level)
  | getStuffBit (bf : BfIx) (kind : KindSel) (val : Option Level)
  | getBitIndex (bf : BfIx)
  | getNumStuff (bf : BfIx) (kind : KindSel) (field : Option Tag) (val : Option Level)
  | insertBit (bf : BfIx) (field : Tag) (val : Level)
  | insertBitCopy (bf bf2 : BfIx)
  | removeBit (bf : BfIx) (flag : Bool) (field : Option Tag)
  | appendBit (bf : BfIx) (field : Tag) (val : Level)
  | appendBf (bf bf2 : BfIx)
  | removeBitsFrom (bf : BfIx)
  | turnRx (bf : BfIx)
  | insActErr (bf : BfIx)
  | insPasErr (bf : BfIx)
  | insOvr (bf : BfIx)
  | looseArb (bf : BfIx)
  | flipBit (bf : BfIx)
  | flipComp (bf : BfIx)
  | appendSuspend (bf : BfIx)
  | lengthen (bf : BfIx) (phase : Phase)
  | shorten (bf : BfIx) (phase : Phase)
  | forceTq (bf : BfIx) (flag : Bool) (phase : Phase) (val : Level)
  | forceCycle (bf : BfIx) (flag : Bool) (phase : Phase) (val : Level)
  | firstTq (bf : BfIx) (phase : Phase)
  | lastTq (bf : BfIx) (phase : Phase)
  | prevPhase (bf : BfIx) (phase : Phase)
  | resync (bf : BfIx)
  deriving DecidableEq, Repr

end Sys2Proof
end

