-- ==== Sys2Proof/WellFormed.lean ====
section
/-! DEFINITION. Which commands have operands that agree with each other. The types of `Instr` already rule out what the
decoder refuses (slot numbers, reserved tags and kinds, a field or filter without its selector). What is left are the
operand combinations a word can carry and the command's own check refuses with `E_ARG` in every state: the `FLAG`/`FSEL`
mismatch of REMOVE_BIT (44_structural R292) and an absolute TQ index given with a phase (41_bit_timing R182). -/

namespace Sys2Proof

/-- REMOVE_BIT by field (`FLAG` = 1) has a field operand, and by position (`FLAG` = 0) has none (44_structural R292). -/
def removeOperandsAgree (flag : Bool) (field : Option Tag) : Bool :=
  flag == field.isSome

/-- An absolute TQ index (`FLAG` = 0) comes with `PHASE` = 0 (41_bit_timing R182). -/
def tqOperandsAgree (flag : Bool) (phase : Phase) : Bool :=
  flag || phase == .sync

/-- The operands of a command agree with each other. -/
def Instr.wellFormed (i : Instr) : Bool :=
  match i with
  | .removeBit _ flag field => removeOperandsAgree flag field
  | .forceTq _ flag phase _ => tqOperandsAgree flag phase
  | .forceCycle _ flag phase _ => tqOperandsAgree flag phase
  | .nop => true
  | .setNbt => true
  | .setDbt => true
  | .setFlags _ => true
  | .setDlc _ => true
  | .setDlen _ => true
  | .setId _ => true
  | .randomize _ => true
  | .frameEq => true
  | .dlcToLen _ => true
  | .lenToDlc _ => true
  | .build _ _ => true
  | .update _ _ => true
  | .readLen _ => true
  | .readBit _ => true
  | .readTq _ => true
  | .readCycle _ => true
  | .bitCycles _ => true
  | .getBitOf _ _ => true
  | .getBitOfNs _ _ => true
  | .getRandomBitOf _ _ _ => true
  | .getStuffBit _ _ _ => true
  | .getBitIndex _ => true
  | .getNumStuff _ _ _ _ => true
  | .insertBit _ _ _ => true
  | .insertBitCopy _ _ => true
  | .appendBit _ _ _ => true
  | .appendBf _ _ => true
  | .removeBitsFrom _ => true
  | .turnRx _ => true
  | .insActErr _ => true
  | .insPasErr _ => true
  | .insOvr _ => true
  | .looseArb _ => true
  | .flipBit _ => true
  | .flipComp _ => true
  | .appendSuspend _ => true
  | .lengthen _ _ => true
  | .shorten _ _ => true
  | .firstTq _ _ => true
  | .lastTq _ _ => true
  | .prevPhase _ _ => true
  | .resync _ => true

end Sys2Proof
end

