-- ==== Sys2Proof/Decode.lean ====
section
/-! DEFINITION. The codes of the operand values, the decoder of command words (30_encoding R90 to R97, R104 steps 2 to 4)
and, after it, the encoder, both written from the same tables of 30_encoding. -/

namespace Sys2Proof

/-! ### Codes -/

/-- Dominant is 0 and Recessive is 1 (00_scope R12, 30_encoding R98). -/
def Level.bit : Level → Bool
  | .dominant => false
  | .recessive => true

/-- The bit value a bit encodes (00_scope R12). -/
def Level.ofBit (b : Bool) : Level :=
  if b then .recessive else .dominant

/-- The code of a field tag (30_encoding R95). -/
def Tag.code : Tag → BitVec 5
  | .sof => 0
  | .baseIdentifier => 1
  | .identifierExtension => 2
  | .rtr => 3
  | .srr => 4
  | .ide => 5
  | .edl => 6
  | .r0 => 7
  | .r1 => 8
  | .brs => 9
  | .esi => 10
  | .dlc => 11
  | .data => 12
  | .stuffCount => 13
  | .stuffParity => 14
  | .crc => 15
  | .crcDelimiter => 16
  | .ack => 17
  | .ackDelimiter => 18
  | .eof => 19
  | .intermission => 20
  | .suspend => 21
  | .idle => 22
  | .activeErrorFlag => 23
  | .passiveErrorFlag => 24
  | .errorDelimiter => 25
  | .overloadFlag => 26
  | .overloadDelimiter => 27

/-- The field tag of a code, none for the reserved codes 28..31 (30_encoding R95). -/
def Tag.ofCode (c : BitVec 5) : Option Tag :=
  match c.toNat with
  | 0 => some .sof
  | 1 => some .baseIdentifier
  | 2 => some .identifierExtension
  | 3 => some .rtr
  | 4 => some .srr
  | 5 => some .ide
  | 6 => some .edl
  | 7 => some .r0
  | 8 => some .r1
  | 9 => some .brs
  | 10 => some .esi
  | 11 => some .dlc
  | 12 => some .data
  | 13 => some .stuffCount
  | 14 => some .stuffParity
  | 15 => some .crc
  | 16 => some .crcDelimiter
  | 17 => some .ack
  | 18 => some .ackDelimiter
  | 19 => some .eof
  | 20 => some .intermission
  | 21 => some .suspend
  | 22 => some .idle
  | 23 => some .activeErrorFlag
  | 24 => some .passiveErrorFlag
  | 25 => some .errorDelimiter
  | 26 => some .overloadFlag
  | 27 => some .overloadDelimiter
  | _ => none

/-- `FrameTags`, the codes 0..15: the tags of the bits BUILD emits from SOF through the CRC (30_encoding R95). -/
def Tag.inFrame (t : Tag) : Bool :=
  t.code.toNat < 16

/-- The code of a phase (30_encoding R96). -/
def Phase.code : Phase → BitVec 2
  | .sync => 0
  | .prop => 1
  | .ph1 => 2
  | .ph2 => 3

/-- The phase of a code; all four codes are defined (30_encoding R96). -/
def Phase.ofCode (c : BitVec 2) : Phase :=
  match c.toNat with
  | 0 => .sync
  | 1 => .prop
  | 2 => .ph1
  | _ => .ph2

/-- The code of a stuff-kind selector (30_encoding R97). -/
def KindSel.code : KindSel → BitVec 2
  | .any => 0
  | .regular => 1
  | .fixed => 2

/-- The stuff-kind selector of a code, none for the reserved code 3 (30_encoding R97). -/
def KindSel.ofCode (c : BitVec 2) : Option KindSel :=
  match c.toNat with
  | 0 => some .any
  | 1 => some .regular
  | 2 => some .fixed
  | _ => none

/-! ### The command word -/

/-- A field's value at its place in a word: bit 0 of the field is bit `lo` of the word (00_scope R10). -/
def place {n : Nat} (v : BitVec n) (lo : Nat) : Word :=
  v.setWidth 32 <<< lo

/-- A one-bit field's value at bit `lo` of a word. -/
def placeBit (b : Bool) (lo : Nat) : Word :=
  place (BitVec.ofBool b) lo

/-- The word whose fields are `c`, at the bit positions of 30_encoding R90. -/
def C32.word (c : C32) : Word :=
  place c.opc 26 ||| place c.bf 24 ||| place c.bf2 22 ||| place c.fs 21 ||| place c.flag 20 ||| place c.vsel 19
    ||| place c.val 18 ||| place c.kind 16 ||| place c.fsel 15 ||| place c.field 10 ||| place c.phase 8 ||| place c.rsv 0

/-- The fields of a command word, at the bit positions of 30_encoding R90. -/
def C32.ofWord (w : Word) : C32 where
  opc := w.extractLsb' 26 6
  bf := w.extractLsb' 24 2
  bf2 := w.extractLsb' 22 2
  fs := w.extractLsb' 21 1
  flag := w.extractLsb' 20 1
  vsel := w.extractLsb' 19 1
  val := w.extractLsb' 18 1
  kind := w.extractLsb' 16 2
  fsel := w.extractLsb' 15 1
  field := w.extractLsb' 10 5
  phase := w.extractLsb' 8 2
  rsv := w.extractLsb' 0 8

/-- The slot number in `BF`. -/
def C32.bfIx (c : C32) : BfIx := c.bf.toFin

/-- The slot number in `BF2`. -/
def C32.bf2Ix (c : C32) : BfIx := c.bf2.toFin

/-- The frame-slot number in `FS`. -/
def C32.fsIx (c : C32) : FsIx := c.fs.toFin

/-- The option bit `FLAG`. -/
def C32.flagBit (c : C32) : Bool := c.flag == 1

/-- The bit value in `VAL` (30_encoding R98). -/
def C32.level (c : C32) : Level := Level.ofBit (c.val == 1)

/-- The phase in `PHASE`. -/
def C32.phaseOp (c : C32) : Phase := Phase.ofCode c.phase

/-- A mandatory field operand, marked `FSEL=1` in the opcode map (30_encoding R91, R95). -/
def C32.fieldOp (c : C32) : Except DecodeError Tag :=
  if c.fsel = 0 then .error .fieldMissing
  else match Tag.ofCode c.field with
    | some t => .ok t
    | none => .error .reservedTag

/-- An optional field operand (30_encoding R91, R95). -/
def C32.fieldOpt (c : C32) : Except DecodeError (Option Tag) :=
  if c.fsel = 0 then
    if c.field = 0 then .ok none else .error .fieldWithoutFsel
  else match Tag.ofCode c.field with
    | some t => .ok (some t)
    | none => .error .reservedTag

/-- An optional value filter (30_encoding R91). -/
def C32.filterOpt (c : C32) : Except DecodeError (Option Level) :=
  if c.vsel = 0 then
    if c.val = 0 then .ok none else .error .valWithoutVsel
  else .ok (some c.level)

/-- The stuff-kind selector (30_encoding R97). -/
def C32.kindOp (c : C32) : Except DecodeError KindSel :=
  match KindSel.ofCode c.kind with
  | some k => .ok k
  | none => .error .reservedKind

/-! ### The opcode map -/

/-- Where the fields of C32 lie in the word, as masks (30_encoding R90): the opcode, and the fields a row may use. -/
def maskOpc : Word := 0xFC000000
def maskBf : Word := 0x03000000
def maskBf2 : Word := 0x00C00000
def maskFs : Word := 0x00200000
def maskFlag : Word := 0x00100000
def maskVsel : Word := 0x00080000
def maskVal : Word := 0x00040000
def maskKind : Word := 0x00030000
def maskFsel : Word := 0x00008000
def maskField : Word := 0x00007C00
def maskPhase : Word := 0x00000300

/-- One row of the opcode map (30_encoding R93): its opcode, the mask of the "cmd fields" it uses, and how its operands are
read from the fields. -/
structure OpRow where
  opc  : BitVec 6
  uses : Word
  read : C32 → Except DecodeError Instr

/-- A row whose operands are always readable. -/
def OpRow.plain (opc : BitVec 6) (uses : Word) (f : C32 → Instr) : OpRow :=
  ⟨opc, uses, fun c => .ok (f c)⟩

/-- A row that uses `BF` alone. -/
def OpRow.onBf (opc : BitVec 6) (f : BfIx → Instr) : OpRow :=
  .plain opc maskBf fun c => f c.bfIx

/-- A row that uses `BF` and `PHASE`. -/
def OpRow.onPhase (opc : BitVec 6) (f : BfIx → Phase → Instr) : OpRow :=
  .plain opc (maskBf ||| maskPhase) fun c => f c.bfIx c.phaseOp

/-- Rows 0x00 to 0x0A: timing, flags and frame commands. -/
def rowsConfig : List OpRow := [
  .plain 0x00 0 fun _ => .nop,
  .plain 0x01 0 fun _ => .setNbt,
  .plain 0x02 0 fun _ => .setDbt,
  .plain 0x03 maskFs fun c => .setFlags c.fsIx,
  .plain 0x04 maskFs fun c => .setDlc c.fsIx,
  .plain 0x05 maskFs fun c => .setDlen c.fsIx,
  .plain 0x06 maskFs fun c => .setId c.fsIx,
  .plain 0x07 maskFs fun c => .randomize c.fsIx,
  .plain 0x08 0 fun _ => .frameEq,
  .plain 0x09 maskFlag fun c => .dlcToLen c.flagBit,
  .plain 0x0A maskFlag fun c => .lenToDlc c.flagBit]

/-- Rows 0x10 to 0x1C: the encoder and the queries. -/
def rowsQuery : List OpRow := [
  .plain 0x10 (maskBf ||| maskFs) fun c => .build c.bfIx c.fsIx,
  .plain 0x11 (maskBf ||| maskFlag) fun c => .update c.bfIx c.flagBit,
  .onBf 0x12 .readLen,
  .onBf 0x13 .readBit,
  .onBf 0x14 .readTq,
  .onBf 0x15 .readCycle,
  .onBf 0x16 .bitCycles,
  ⟨0x17, maskBf ||| maskFsel ||| maskField, fun c => do return .getBitOf c.bfIx (← c.fieldOp)⟩,
  ⟨0x18, maskBf ||| maskFsel ||| maskField, fun c => do return .getBitOfNs c.bfIx (← c.fieldOp)⟩,
  ⟨0x19, maskBf ||| maskFsel ||| maskField ||| maskVsel ||| maskVal,
    fun c => do return .getRandomBitOf c.bfIx (← c.fieldOp) (← c.filterOpt)⟩,
  ⟨0x1A, maskBf ||| maskKind ||| maskVsel ||| maskVal,
    fun c => do return .getStuffBit c.bfIx (← c.kindOp) (← c.filterOpt)⟩,
  .onBf 0x1B .getBitIndex,
  ⟨0x1C, maskBf ||| maskKind ||| maskFsel ||| maskField ||| maskVsel ||| maskVal,
    fun c => do return .getNumStuff c.bfIx (← c.kindOp) (← c.fieldOpt) (← c.filterOpt)⟩]

/-- Rows 0x20 to 0x2F: structural edits and protocol-fault helpers. -/
def rowsEdit : List OpRow := [
  ⟨0x20, maskBf ||| maskFsel ||| maskField ||| maskVal, fun c => do return .insertBit c.bfIx (← c.fieldOp) c.level⟩,
  .plain 0x21 (maskBf ||| maskBf2) fun c => .insertBitCopy c.bfIx c.bf2Ix,
  ⟨0x22, maskBf ||| maskFlag ||| maskFsel ||| maskField, fun c => do return .removeBit c.bfIx c.flagBit (← c.fieldOpt)⟩,
  ⟨0x23, maskBf ||| maskFsel ||| maskField ||| maskVal, fun c => do return .appendBit c.bfIx (← c.fieldOp) c.level⟩,
  .plain 0x24 (maskBf ||| maskBf2) fun c => .appendBf c.bfIx c.bf2Ix,
  .onBf 0x25 .removeBitsFrom,
  .onBf 0x28 .turnRx,
  .onBf 0x29 .insActErr,
  .onBf 0x2A .insPasErr,
  .onBf 0x2B .insOvr,
  .onBf 0x2C .looseArb,
  .onBf 0x2D .flipBit,
  .onBf 0x2E .flipComp,
  .onBf 0x2F .appendSuspend]

/-- Rows 0x30 to 0x37: the time-quantum commands. -/
def rowsTiming : List OpRow := [
  .onPhase 0x30 .lengthen,
  .onPhase 0x31 .shorten,
  .plain 0x32 (maskBf ||| maskFlag ||| maskPhase ||| maskVal) fun c => .forceTq c.bfIx c.flagBit c.phaseOp c.level,
  .plain 0x33 (maskBf ||| maskFlag ||| maskPhase ||| maskVal) fun c => .forceCycle c.bfIx c.flagBit c.phaseOp c.level,
  .onPhase 0x34 .firstTq,
  .onPhase 0x35 .lastTq,
  .onPhase 0x36 .prevPhase,
  .onBf 0x37 .resync]

/-- The opcode map, all 46 rows (30_encoding R93). -/
def opRows : List OpRow :=
  rowsConfig ++ rowsQuery ++ rowsEdit ++ rowsTiming

/-- Decode a command word: the opcode first, then the unused fields, then the operands (30_encoding R104 steps 2 to 4). -/
def decode (w : Word) : Except DecodeError Instr :=
  match opRows.find? (fun r => r.opc == w.extractLsb' 26 6) with
  | none => .error .reservedOpcode
  | some r =>
    if w &&& ~~~(maskOpc ||| r.uses) = 0 then r.read (C32.ofWord w) else .error .unusedNonZero

/-- The instruction the decoder reads from a table word. Every CANBF command is one 32-bit word, bit 0 the least significant
(30_encoding R90, R103), so the word is the number itself; bits above `nbits` are 0. -/
def decodeTableWord (nbits w : Nat) : Option Instr :=
  match decode (BitVec.ofNat 32 (w % 2 ^ nbits)) with
  | .ok i => some i
  | .error _ => none

/-! ### The encoder -/

/-- The fields of a mandatory field operand. -/
def C32.withField (c : C32) (t : Tag) : C32 :=
  { c with fsel := 1, field := t.code }

/-- The fields of an optional field operand. -/
def C32.withFieldOpt (c : C32) : Option Tag → C32
  | none => c
  | some t => c.withField t

/-- The field of a bit value. -/
def C32.withLevel (c : C32) (v : Level) : C32 :=
  { c with val := BitVec.ofBool v.bit }

/-- The fields of an optional value filter. -/
def C32.withFilter (c : C32) : Option Level → C32
  | none => c
  | some v => { c.withLevel v with vsel := 1 }

/-- The fields of a command (30_encoding R93). -/
def Instr.c32 : Instr → C32
  | .nop => { opc := 0x00 }
  | .setNbt => { opc := 0x01 }
  | .setDbt => { opc := 0x02 }
  | .setFlags fs => { opc := 0x03, fs := .ofFin fs }
  | .setDlc fs => { opc := 0x04, fs := .ofFin fs }
  | .setDlen fs => { opc := 0x05, fs := .ofFin fs }
  | .setId fs => { opc := 0x06, fs := .ofFin fs }
  | .randomize fs => { opc := 0x07, fs := .ofFin fs }
  | .frameEq => { opc := 0x08 }
  | .dlcToLen flag => { opc := 0x09, flag := .ofBool flag }
  | .lenToDlc flag => { opc := 0x0A, flag := .ofBool flag }
  | .build bf fs => { opc := 0x10, bf := .ofFin bf, fs := .ofFin fs }
  | .update bf flag => { opc := 0x11, bf := .ofFin bf, flag := .ofBool flag }
  | .readLen bf => { opc := 0x12, bf := .ofFin bf }
  | .readBit bf => { opc := 0x13, bf := .ofFin bf }
  | .readTq bf => { opc := 0x14, bf := .ofFin bf }
  | .readCycle bf => { opc := 0x15, bf := .ofFin bf }
  | .bitCycles bf => { opc := 0x16, bf := .ofFin bf }
  | .getBitOf bf field => ({ opc := 0x17, bf := .ofFin bf } : C32).withField field
  | .getBitOfNs bf field => ({ opc := 0x18, bf := .ofFin bf } : C32).withField field
  | .getRandomBitOf bf field val => (({ opc := 0x19, bf := .ofFin bf } : C32).withField field).withFilter val
  | .getStuffBit bf kind val => ({ opc := 0x1A, bf := .ofFin bf, kind := kind.code } : C32).withFilter val
  | .getBitIndex bf => { opc := 0x1B, bf := .ofFin bf }
  | .getNumStuff bf kind field val =>
    (({ opc := 0x1C, bf := .ofFin bf, kind := kind.code } : C32).withFieldOpt field).withFilter val
  | .insertBit bf field val => (({ opc := 0x20, bf := .ofFin bf } : C32).withField field).withLevel val
  | .insertBitCopy bf bf2 => { opc := 0x21, bf := .ofFin bf, bf2 := .ofFin bf2 }
  | .removeBit bf flag field => ({ opc := 0x22, bf := .ofFin bf, flag := .ofBool flag } : C32).withFieldOpt field
  | .appendBit bf field val => (({ opc := 0x23, bf := .ofFin bf } : C32).withField field).withLevel val
  | .appendBf bf bf2 => { opc := 0x24, bf := .ofFin bf, bf2 := .ofFin bf2 }
  | .removeBitsFrom bf => { opc := 0x25, bf := .ofFin bf }
  | .turnRx bf => { opc := 0x28, bf := .ofFin bf }
  | .insActErr bf => { opc := 0x29, bf := .ofFin bf }
  | .insPasErr bf => { opc := 0x2A, bf := .ofFin bf }
  | .insOvr bf => { opc := 0x2B, bf := .ofFin bf }
  | .looseArb bf => { opc := 0x2C, bf := .ofFin bf }
  | .flipBit bf => { opc := 0x2D, bf := .ofFin bf }
  | .flipComp bf => { opc := 0x2E, bf := .ofFin bf }
  | .appendSuspend bf => { opc := 0x2F, bf := .ofFin bf }
  | .lengthen bf phase => { opc := 0x30, bf := .ofFin bf, phase := phase.code }
  | .shorten bf phase => { opc := 0x31, bf := .ofFin bf, phase := phase.code }
  | .forceTq bf flag phase val =>
    ({ opc := 0x32, bf := .ofFin bf, flag := .ofBool flag, phase := phase.code } : C32).withLevel val
  | .forceCycle bf flag phase val =>
    ({ opc := 0x33, bf := .ofFin bf, flag := .ofBool flag, phase := phase.code } : C32).withLevel val
  | .firstTq bf phase => { opc := 0x34, bf := .ofFin bf, phase := phase.code }
  | .lastTq bf phase => { opc := 0x35, bf := .ofFin bf, phase := phase.code }
  | .prevPhase bf phase => { opc := 0x36, bf := .ofFin bf, phase := phase.code }
  | .resync bf => { opc := 0x37, bf := .ofFin bf }

/-- The word of a command (30_encoding R90, R93). -/
def encode (i : Instr) : Word :=
  i.c32.word

end Sys2Proof
end

