-- ==== Sys2Proof/Machine/State.lean ====
section
/-! DEFINITION. The state of CANBF as plain data (10_state), the host's events, the reasons a step can stop, and the state
after reset (10_state R42, 70_reset R370). -/

namespace Sys2Proof.Machine

/-- Stuff-bit classification of a bit record (10_state R37); the codes are `StuffKind.code` in Operands.lean. -/
inductive StuffKind where
  | none | regular | fixed
  deriving DecidableEq, Repr

/-- The timing domain of a phase of a bit (41_bit_timing R170). -/
inductive Domain where
  | nominal | data
  deriving DecidableEq, Repr

/-- The error codes a command can raise (60_exceptions R340); the numbers are `Err.code` in Ops.lean. -/
inductive Err where
  | opc | arg | sjw | brp | dlc | dlen | id | timing | slot | range | field | shorten | capacity
  deriving DecidableEq, Repr

/-- A TQ record (10_state R38): its phase, its length in clock cycles, its forced value, and one force entry per cycle. -/
structure Tq where
  phase : Phase
  len   : Nat
  tqf   : Option Level
  cyc   : List (Option Level)
  deriving DecidableEq, Repr

/-- A bit record (10_state R37). -/
structure BitRec where
  tag   : Tag
  value : Level
  stuff : StuffKind
  fsp   : Bool
  tqs   : List Tq
  deriving DecidableEq, Repr

/-- A BitTiming value, NBT or DBT (10_state R29). -/
structure BitTiming where
  prop  : BitVec 8
  ph1   : BitVec 8
  ph2   : BitVec 8
  sjw   : BitVec 8
  brp   : BitVec 8
  valid : Bool
  deriving DecidableEq, Repr

/-- The frame flags, the bits of FLAGS (10_state R32). -/
structure FrameFlags where
  fdf : Bool
  ide : Bool
  rtr : Bool
  brs : Bool
  esi : Bool
  deriving DecidableEq, Repr

/-- A frame slot (10_state R31 to R35). `data` holds bytes 0 to 63 of the data buffer and `spare` the rest where `DATA_BYTES`
exceeds 64: no rule of the spec reads or writes those (20_memory R63, 40_config_frame R141). `rand` is RAND, bit 0 for the
DLC, 1 for the identifier, 2 for the data. -/
structure Frame where
  flags : FrameFlags
  dlc   : BitVec 4
  dlen  : BitVec 7
  id    : BitVec 29
  data  : Vector Byte Config.windowBytes
  spare : List Byte
  rand  : BitVec 3
  deriving DecidableEq, Repr

/-- The copy BUILD takes of the frame slot and the timing registers (10_state R36). -/
structure Snap where
  flags : FrameFlags
  dlc   : BitVec 4
  dlen  : BitVec 7
  id    : BitVec 29
  nbt   : BitTiming
  dbt   : BitTiming
  deriving DecidableEq, Repr

/-- A bit-frame slot (10_state R36). -/
structure BitFrame where
  valid : Bool
  snap  : Snap
  bits  : List BitRec
  deriving DecidableEq, Repr

/-- STATUS (10_state R25). It is read-only and its reserved bits read 0, so only the named fields are kept; the register
word is `Status.word` in Flags.lean. -/
structure Status where
  err    : Bool
  drop   : Bool
  wRtrFd : Bool
  wBrsCl : Bool
  wEsiCl : Bool
  ecode  : BitVec 8
  deriving DecidableEq, Repr

/-- What the host or the platform does to the block: a register read or write of `bytes` bytes at `addr`
(00_scope R13, 20_memory R60, R61), or the assertion of the reset input (70_reset R370). Log entries 1 and 9. -/
inductive HostEvent where
  | read (addr : Addr) (bytes : Nat)
  | write (addr : Addr) (bytes : Nat) (value : Word)
  | reset
  deriving DecidableEq, Repr

/-- Why a step stops. -/
inductive Fault where
  /-- Raised by `serve` for a host access that is not 32 bits wide or not 32-bit aligned: "the model gives it no step, so
  the host is stuck" (20_memory R61, 93 I5). Safe: the model stops where the spec gives no step. Log entry 3. -/
  | notAdmitted (addr : Addr) (bytes : Nat)
  deriving DecidableEq, Repr

/-- Why an instruction has no meaning. -/
inductive Refusal where
  /-- An instruction that is not modelled yet, by its mnemonic. No arm raises it. Safe. -/
  | notModelled (mnemonic : String)
  /-- Raised by `runWord` for a command that names a slot the block does not have, because `BF_SLOTS` or `FRAME_SLOTS` is
  overridden by fewer than the command word can name; no rule says what happens. Never with the values of 00_scope R8. Safe:
  the model stops. Log entry 8. -/
  | absentSlot
  deriving DecidableEq, Repr

/-- The machine: the parameters it was given, which no step changes (10_state R21, log entry 8); every register and slot the
spec names (10_state); and three fields of the model's own, `pending`, `readData` and `draws` (log entries 1, 7 and 4). CAPS
shows the parameters and CMD and STATUS_CLR hold nothing (10_state R26 to R28), so they are no fields. -/
structure State where
  params   : Config.Params
  status   : Status
  arg0     : Word
  arg1     : Word
  arg2     : Word
  arg3     : Word
  result0  : Word
  result1  : Word
  nbt      : BitTiming
  dbt      : BitTiming
  frames   : Vector Frame Config.frameNames
  bfs      : Vector BitFrame Config.bfNames
  readData : Word
  draws    : Nat
  pending  : List HostEvent
  deriving DecidableEq, Repr

/-- STATUS after reset: 0 (10_state R25). -/
def Status.reset : Status where
  err := false
  drop := false
  wRtrFd := false
  wBrsCl := false
  wEsiCl := false
  ecode := 0

/-- NBT and DBT after reset: all fields 0 and `VALID` 0 (10_state R30). -/
def BitTiming.reset : BitTiming where
  prop := 0
  ph1 := 0
  ph2 := 0
  sjw := 0
  brp := 0
  valid := false

/-- FLAGS after reset: Classical, base, data, no shift, active (10_state R32). -/
def FrameFlags.reset : FrameFlags where
  fdf := false
  ide := false
  rtr := false
  brs := false
  esi := false

/-- A frame slot after reset, its `DATA_BYTES` bytes the draws `k`, `k+1`, … (10_state R35, R42). -/
def Frame.reset (p : Config.Params) (k : Nat) : Frame where
  flags := FrameFlags.reset
  dlc := 0
  dlen := 0
  id := 0
  data := Vector.ofFn fun j => Config.draw 8 (k + j.val)
  spare := (List.range p.spareBytes).map fun j => Config.draw 8 (k + Config.windowBytes + j)
  rand := 0

/-- The `snap` of a slot after reset: all zero (10_state R36). -/
def Snap.reset : Snap where
  flags := FrameFlags.reset
  dlc := 0
  dlen := 0
  id := 0
  nbt := BitTiming.reset
  dbt := BitTiming.reset

/-- A bit-frame slot after reset (10_state R36). -/
def BitFrame.reset : BitFrame where
  valid := false
  snap := Snap.reset
  bits := []

/-- The state a reset leaves in a block with parameters `p` when `k` draws were taken before it (10_state R42, 70_reset
R370): the DATA bytes of the two frame slots take the next draws. -/
def State.resetAt (p : Config.Params) (k : Nat) : State where
  params := p
  status := Status.reset
  arg0 := 0
  arg1 := 0
  arg2 := 0
  arg3 := 0
  result0 := 0
  result1 := 0
  nbt := BitTiming.reset
  dbt := BitTiming.reset
  frames := Vector.ofFn fun f => Frame.reset p (k + (Config.windowBytes + p.spareBytes) * f.val)
  bfs := Vector.replicate Config.bfNames BitFrame.reset
  readData := 0
  draws := k + (Config.windowBytes + p.spareBytes) * Config.frameNames
  pending := []

/-- A block with parameters `p` right after power-on reset: the parameters are an argument (00_scope R8). -/
def State.resetWith (p : Config.Params) : State := State.resetAt p 0

/-- The machine right after power-on reset, with the parameter values of 00_scope R8. Log entry 5 for the DATA bytes. -/
def State.reset : State := State.resetWith Config.Params.standard

end Sys2Proof.Machine
end

