-- ==== Sys2Proof/Machine/Flags.lean ====
section
/-! DEFINITION. Every flag computation of the spec: STATUS as a word, the warnings and the normalisation of frame flags
(40_config_frame R133), clearing status bits (10_state R26), and FLAGS as bits (10_state R32). -/

namespace Sys2Proof.Machine

/-- STATUS as the register reads: ECODE in 15:8, the five flags in 4:0, reserved bits 0 (10_state R25). -/
def Status.word (st : Status) : Word :=
  place st.ecode 8 ||| placeBit st.wEsiCl 4 ||| placeBit st.wBrsCl 3 ||| placeBit st.wRtrFd 2 ||| placeBit st.drop 1
    ||| placeBit st.err 0

/-- What a write of `v` to STATUS_CLR leaves: each flag `i` in 0..4 with `v[i]` = 1 is cleared, and ECODE with flag 0
(10_state R26). -/
def Status.cleared (st : Status) (v : Word) : Status where
  err := st.err && !v.getLsbD 0
  drop := st.drop && !v.getLsbD 1
  wRtrFd := st.wRtrFd && !v.getLsbD 2
  wBrsCl := st.wBrsCl && !v.getLsbD 3
  wEsiCl := st.wEsiCl && !v.getLsbD 4
  ecode := if v.getLsbD 0 then 0 else st.ecode

/-- The flags as the bits of FLAGS, FDF in bit 0 (10_state R32). -/
def FrameFlags.word (f : FrameFlags) : Word :=
  placeBit f.esi 4 ||| placeBit f.brs 3 ||| placeBit f.rtr 2 ||| placeBit f.ide 1 ||| placeBit f.fdf 0

/-- The flags in the low five bits of SET_FLAGS's operand (30_encoding R102). -/
def FrameFlags.ofWord (w : Word) : FrameFlags where
  fdf := w.getLsbD 0
  ide := w.getLsbD 1
  rtr := w.getLsbD 2
  brs := w.getLsbD 3
  esi := w.getLsbD 4

/-- `Normalize`: RTR is forced off in an FD frame, BRS and ESI in a Classical one (40_config_frame R133). -/
def FrameFlags.normalize (f : FrameFlags) : FrameFlags where
  fdf := f.fdf
  ide := f.ide
  rtr := f.rtr && !f.fdf
  brs := f.brs && f.fdf
  esi := f.esi && f.fdf

/-- The warnings `Normalize` gives on `f`, set on top of the sticky ones already there (40_config_frame R133,
60_exceptions R343). -/
def Status.warned (st : Status) (f : FrameFlags) : Status :=
  { st with
    wRtrFd := st.wRtrFd || (f.fdf && f.rtr)
    wBrsCl := st.wBrsCl || (!f.fdf && f.brs)
    wEsiCl := st.wEsiCl || (!f.fdf && f.esi) }

end Sys2Proof.Machine
end

