-- ==== Sys2Proof/Machine/Ops.lean ====
section
/-! DEFINITION. The named operations over the state: slots and frames, running a command (dropping it, failing, committing),
recovery, and the bit records and their time quanta (41_bit_timing R170 to R173, 182). -/

namespace Sys2Proof.Machine

/-! ### Failing and recovering -/

/-- The number ECODE records for an error (60_exceptions R340). -/
def Err.code : Err → BitVec 8
  | .opc => 0x01
  | .arg => 0x02
  | .sjw => 0x03
  | .brp => 0x04
  | .dlc => 0x05
  | .dlen => 0x06
  | .id => 0x07
  | .timing => 0x08
  | .slot => 0x09
  | .range => 0x0A
  | .field => 0x0B
  | .shorten => 0x0C
  | .capacity => 0x0D

/-- The error a command word the decoder refuses raises (30_encoding R104 steps 2 to 4). -/
def decodeErr : DecodeError → Err
  | .reservedOpcode => .opc
  | .unusedNonZero => .arg
  | .fieldWithoutFsel => .arg
  | .fieldMissing => .arg
  | .valWithoutVsel => .arg
  | .reservedTag => .arg
  | .reservedKind => .arg

/-- What a command that raises `e` does, its only effect: ERR becomes 1 and ECODE the code of `e` (60_exceptions R341).
This is the block's whole counterpart of taking an exception: there is no trap, no saved pc, no handler (R346). -/
def raise (s : State) (e : Err) : State :=
  { s with status := { s.status with err := true, ecode := e.code } }

/-- What a command written while ERR = 1 does: it sets DROP and changes nothing else (60_exceptions R342). -/
def dropCommand (s : State) : State :=
  { s with status := { s.status with drop := true } }

/-- A write of `v` to STATUS_CLR (10_state R26). With bit 0 set it is the recovery from a failure, the counterpart of a
return from an exception (60_exceptions R347). -/
def clearStatus (s : State) (v : Word) : State :=
  { s with status := s.status.cleared v }

/-- Run a command atomically (00_scope R14, 30_encoding R104): drop it while ERR = 1; otherwise, where the checks of its
`body` fail, discard every write and record the error; otherwise commit the state `body` gives. -/
def command (s : State) (body : Except Err State) : Host.Outcome State Fault Refusal :=
  if s.status.err then .next (dropCommand s)
  else match body with
    | .ok t => .next t
    | .error e => .next (raise s e)

/-! ### Slots and frames -/

/-- Frame slot `fs`. -/
def State.frame (s : State) (fs : FsIx) : Frame := s.frames[fs]

/-- Replace frame slot `fs`. -/
def State.setFrame (s : State) (fs : FsIx) (fr : Frame) : State :=
  { s with frames := s.frames.set fs fr }

/-- Bit-frame slot `bf`. -/
def State.slot (s : State) (bf : BfIx) : BitFrame := s.bfs[bf]

/-- Replace bit-frame slot `bf`. -/
def State.setSlot (s : State) (bf : BfIx) (f : BitFrame) : State :=
  { s with bfs := s.bfs.set bf f }

/-- Replace the bits of slot `bf`, keeping its `VALID` and `snap`. -/
def State.setBits (s : State) (bf : BfIx) (bits : List BitRec) : State :=
  s.setSlot bf { s.slot bf with bits := bits }

/-- Write RESULT0. -/
def State.setResult0 (s : State) (v : Word) : State :=
  { s with result0 := v }

/-- Write RESULT0 and RESULT1. -/
def State.setResults (s : State) (v0 v1 : Word) : State :=
  { s with result0 := v0, result1 := v1 }

/-- The slot check of decode step 5: go on with slot `bf`, or raise `E_SLOT` where its `VALID` is 0 (30_encoding R104). -/
def withSlot {α : Type} (s : State) (bf : BfIx) (k : BitFrame → Except Err α) : Except Err α :=
  if (s.slot bf).valid then k (s.slot bf) else .error .slot

/-- Go on with the bit at index `i`, or raise `E_RANGE` where the slot has no such bit. -/
def withBit {α : Type} (f : BitFrame) (i : Word) (k : BitRec → Except Err α) : Except Err α :=
  match f.bits[i.toNat]? with
  | some b => k b
  | none => .error .range

/-- Go on with the time quantum at index `k` of a bit, or raise `E_RANGE` where the bit has no such quantum. -/
def withTq {α : Type} (b : BitRec) (j : Nat) (k : Tq → Except Err α) : Except Err α :=
  match b.tqs[j]? with
  | some q => k q
  | none => .error .range

/-! ### Values -/

/-- The complement of a bit value (00_scope R10). -/
def flipLevel : Level → Level
  | .dominant => .recessive
  | .recessive => .dominant

/-! ### The phase mapper -/

/-- `Dom(tag, phase, fdf, brs)`, the timing domain of a phase of a bit (41_bit_timing R170). -/
def dom (tag : Tag) (phase : Phase) (fdf brs : Bool) : Domain :=
  if fdf && brs then
    match tag with
    | .brs => if phase = .ph2 then .data else .nominal
    | .esi => .data
    | .dlc => .data
    | .data => .data
    | .stuffCount => .data
    | .stuffParity => .data
    | .crc => .data
    | .crcDelimiter => if phase = .ph2 then .nominal else .data
    | _ => .nominal
  else .nominal

/-- `Timing(Dom(tag, phase))` of a slot: the snapshot's NBT or DBT (41_bit_timing R170). -/
def Snap.timing (sn : Snap) (tag : Tag) (phase : Phase) : BitTiming :=
  match dom tag phase sn.flags.fdf sn.flags.brs with
  | .nominal => sn.nbt
  | .data => sn.dbt

/-- The quanta a phase has in a timing: 1 for Sync, else the segment length (41_bit_timing R171). -/
def BitTiming.quanta (t : BitTiming) : Phase → Nat
  | .sync => 1
  | .prop => t.prop.toNat
  | .ph1 => t.ph1.toNat
  | .ph2 => t.ph2.toNat

/-- A fresh time quantum of `n` cycles, unforced (41_bit_timing R171). -/
def newTq (phase : Phase) (n : Nat) : Tq where
  phase := phase
  len := n
  tqf := none
  cyc := List.replicate n none

/-- The quanta `NewBit` gives one phase of a bit. -/
def newPhase (sn : Snap) (tag : Tag) (phase : Phase) : List Tq :=
  List.replicate ((sn.timing tag phase).quanta phase) (newTq phase (sn.timing tag phase).brp.toNat)

/-- `NewBit(tag, v)`: a fresh bit record of a slot with snapshot `sn` (41_bit_timing R171). -/
def newBit (sn : Snap) (tag : Tag) (v : Level) : BitRec where
  tag := tag
  value := v
  stuff := .none
  fsp := false
  tqs := newPhase sn tag .sync ++ newPhase sn tag .prop ++ newPhase sn tag .ph1 ++ newPhase sn tag .ph2

/-! ### Time quanta of a bit (41_bit_timing R173) -/

/-- `count(b, p)`. -/
def BitRec.count (b : BitRec) (p : Phase) : Nat :=
  b.tqs.countP fun q => q.phase == p

/-- A bit is within `MAX_TQ_PER_PHASE` and `MAX_TQ_CYCLES` (20_memory R67). -/
def BitRec.fits (c : Config.Params) (b : BitRec) : Bool :=
  ([Phase.sync, .prop, .ph1, .ph2].all fun p => b.count p ≤ c.maxTqPerPhase) && b.tqs.all fun q => q.len ≤ c.maxTqCycles

/-- The capacity check of decode step 7 on the bits a command would leave, of which it makes `made` afresh: `E_CAPACITY`
where they are more than `MAX_BITS`, or a fresh one is beyond the bounds of a phase or a quantum (20_memory R67, 30_encoding
R104). -/
def withinCapacity (c : Config.Params) (made bits : List BitRec) : Except Err (List BitRec) :=
  if bits.length > c.maxBits ∨ made.all (BitRec.fits c) = false then .error .capacity else .ok bits

/-- The index of the first element that satisfies `p`. -/
def firstIdx {α : Type} (p : α → Bool) : List α → Option Nat
  | [] => none
  | x :: xs => if p x then some 0 else (firstIdx p xs).map (· + 1)

/-- The index of the last element that satisfies `p`. -/
def lastIdx {α : Type} (p : α → Bool) : List α → Option Nat
  | [] => none
  | x :: xs =>
    match lastIdx p xs with
    | some k => some (k + 1)
    | none => if p x then some 0 else none

/-- `first(b, p)`, none where `count(b, p)` = 0. -/
def BitRec.first (b : BitRec) (p : Phase) : Option Nat :=
  firstIdx (fun q => q.phase == p) b.tqs

/-- `last(b, p)`, none where `count(b, p)` = 0. -/
def BitRec.last (b : BitRec) (p : Phase) : Option Nat :=
  lastIdx (fun q => q.phase == p) b.tqs

/-- Time order of phases: Sync < Prop < Ph1 < Ph2 (30_encoding R96). -/
def phaseBefore (p q : Phase) : Bool :=
  p.code.toNat < q.code.toNat

/-- `slot(b, p)`: where a new quantum of phase `p` is inserted. -/
def BitRec.insertPoint (b : BitRec) (p : Phase) : Nat :=
  match b.last p with
  | some k => k + 1
  | none => b.tqs.countP fun q => phaseBefore q.phase p

/-- Add `n` quanta of `len` cycles to the end of phase `p` (41_bit_timing R180). The rule inserts them one at a time at
`slot(b, p)`; each lands right after the one before, so they are inserted as one block. Log entry 14. -/
def BitRec.addTqs (b : BitRec) (p : Phase) (n len : Nat) : BitRec :=
  let i := b.insertPoint p
  { b with tqs := b.tqs.take i ++ List.replicate n (newTq p len) ++ b.tqs.drop i }

/-- Remove the last quantum of phase `p` from a list of quanta. -/
def dropLastOf (p : Phase) (tqs : List Tq) : List Tq :=
  match lastIdx (fun q => q.phase == p) tqs with
  | some k => tqs.eraseIdx k
  | none => tqs

/-- Remove the last `n` quanta of phase `p`, one at a time (41_bit_timing R181). -/
def dropLastsOf (p : Phase) : Nat → List Tq → List Tq
  | 0, tqs => tqs
  | n + 1, tqs => dropLastsOf p n (dropLastOf p tqs)

/-- The body of LENGTHEN on a bit of a slot with snapshot `sn` (41_bit_timing R180), within the parameters `c`; a quantum it
adds must be within `MAX_TQ_CYCLES` (20_memory R67). -/
def lengthenBit (c : Config.Params) (sn : Snap) (b : BitRec) (p : Phase) (n : Nat) : Except Err BitRec :=
  let len := (sn.timing b.tag p).brp.toNat
  if b.count p + n > c.maxTqPerPhase ∨ (n ≠ 0 ∧ len > c.maxTqCycles) then .error .capacity
  else .ok (b.addTqs p n len)

/-- The body of SHORTEN on a bit (41_bit_timing R181). -/
def shortenBit (b : BitRec) (p : Phase) (n : Nat) : Except Err BitRec :=
  if n > b.count p then .error .shorten
  else .ok { b with tqs := dropLastsOf p n b.tqs }

/-- The effective value of a time quantum (10_state R39). -/
def effTq (b : BitRec) (q : Tq) : Level :=
  q.tqf.getD b.value

/-- The force of one cycle of a quantum, if it has one. -/
def Tq.cycForce (q : Tq) (c : Nat) : Option Level :=
  (q.cyc[c]?).getD none

/-- The effective value of one cycle of a quantum (10_state R39). -/
def effCycle (b : BitRec) (q : Tq) (c : Nat) : Level :=
  (q.cycForce c).getD (effTq b q)

/-- Whether any cycle of a quantum is forced. -/
def Tq.anyCyc (q : Tq) : Bool :=
  q.cyc.any Option.isSome

/-- Whether any quantum of a bit carries a force (43_queries R261). -/
def BitRec.forced (b : BitRec) : Bool :=
  b.tqs.any fun q => q.tqf.isSome || q.anyCyc

/-- The length of a bit in clock cycles (43_queries R264). -/
def BitRec.cycles (b : BitRec) : Nat :=
  (b.tqs.map Tq.len).sum

/-- The waveform of one bit: the effective value of every cycle of every quantum, in order (41_bit_timing R174). -/
def BitRec.wave (b : BitRec) : List Level :=
  b.tqs.flatMap fun q => (List.range q.len).map fun c => effCycle b q c

/-- `Wave(s)`, the cycle-level output of a slot, which the host reads cycle by cycle (41_bit_timing R174). -/
def BitFrame.wave (f : BitFrame) : List Level :=
  f.bits.flatMap BitRec.wave

/-- Complement the nominal value of a bit (45_protocol_faults R316). -/
def BitRec.flip (b : BitRec) : BitRec :=
  { b with value := flipLevel b.value }

/-- The value a receiver drives at a bit: Dominant at `Ack`, else Recessive (45_protocol_faults R310). -/
def BitRec.received (b : BitRec) : BitRec :=
  { b with value := if b.tag = .ack then .dominant else .recessive }

/-- Lengthen a quantum by `d` unforced cycles (45_protocol_faults R317). -/
def Tq.extend (q : Tq) (d : Nat) : Tq :=
  { q with len := q.len + d, cyc := q.cyc ++ List.replicate d none }

/-- Flip a bit and add `d` cycles to its last Ph2 quantum, or a Ph2 quantum of `d` cycles where it has none
(45_protocol_faults R317). -/
def compensateBit (c : Config.Params) (b : BitRec) (d : Nat) : Except Err BitRec :=
  match b.last .ph2 with
  | some k =>
    if ((b.tqs[k]?).map Tq.len).getD 0 + d > c.maxTqCycles then .error .capacity
    else .ok { b.flip with tqs := if d = 0 then b.tqs else b.tqs.modify k (Tq.extend · d) }
  | none =>
    if d > c.maxTqCycles then .error .capacity
    else .ok { b.flip with tqs := if d = 0 then b.tqs else b.tqs ++ [newTq .ph2 d] }

/-- `InsFrame`: truncate at `p`, then 6 flag bits, 8 Recessive delimiter bits and 3 Recessive `Intermission` bits
(45_protocol_faults R311). -/
def insFrame (c : Config.Params) (f : BitFrame) (p : Nat) (ftag : Tag) (fval : Level) (dtag : Tag) :
    Except Err (List BitRec) :=
  let new := List.replicate 6 (newBit f.snap ftag fval) ++ List.replicate 8 (newBit f.snap dtag .recessive)
    ++ List.replicate 3 (newBit f.snap .intermission .recessive)
  if p > f.bits.length then .error .range else withinCapacity c new (f.bits.take p ++ new)

end Sys2Proof.Machine
end

