-- ==== Sys2Proof/Machine/Operands.lean ====
section
/-! DEFINITION. Every packed operand and result of the spec: the timing operands (30_encoding R101), the DLC table
(40_config_frame R135, R136), TQ selection (41_bit_timing R182), the selections of the queries (43_queries R250) and the
result words (30_encoding R99). -/

namespace Sys2Proof.Machine

/-! ### Timing operands -/

/-- `TimingCheck` and the timing it admits: segments packed in `a`, `brp` in `r` (40_config_frame R130, R132,
30_encoding R101). -/
def timingOf (a r : Word) : Except Err BitTiming :=
  let p := a.extractLsb' 0 8
  let ph1 := a.extractLsb' 8 8
  let ph2 := a.extractLsb' 16 8
  let s := a.extractLsb' 24 8
  if s.toNat > p.toNat + ph1.toNat + 1 ∨ s.toNat > ph2.toNat then .error .sjw
  else if r.toNat = 0 ∨ r.toNat > 255 then .error .brp
  else .ok { prop := p, ph1 := ph1, ph2 := ph2, sjw := s, brp := r.extractLsb' 0 8, valid := true }

/-- A timing with each field replaced by `g` of its number and its value. -/
def BitTiming.mapFields (g : Nat → BitVec 8 → BitVec 8) (t : BitTiming) : BitTiming :=
  { t with
    prop := g 0 t.prop
    ph1 := g 1 t.ph1
    ph2 := g 2 t.ph2
    sjw := g 3 t.sjw
    brp := g 4 t.brp }

/-- The fields have the legal values of 10_state R29. -/
def BitTiming.legal (t : BitTiming) : Bool :=
  t.sjw.toNat ≤ t.prop.toNat + t.ph1.toNat + 1 && t.sjw.toNat ≤ t.ph2.toNat && 1 ≤ t.brp.toNat

/-- Every field fits fields of `w` bits (00_scope R8). -/
def BitTiming.fits (w : Nat) (t : BitTiming) : Bool :=
  [t.prop, t.ph1, t.ph2, t.sjw, t.brp].all fun v => v.toNat < 2 ^ w

/-- The value `v` where it fits `w` bits, else `x`. -/
def fitField (w : Nat) (x v : BitVec 8) : BitVec 8 :=
  if v.toNat < 2 ^ w then v else x

/-- What timing fields of `w` bits hold once `t` is written: `t` where it fits, as every timing does in the 8 bits of
00_scope R8. No rule says what a field holds that its operand does not fit: a free value of the field's width, numbered from
`k` on, such that the register has the legal values of 10_state R29. The greatest value of the field is one that has them,
and stands in where the free values do not. DESIGN CHOICE, log entry 20. -/
def BitTiming.stored (w k : Nat) (t : BitTiming) : BitTiming :=
  let drawn := t.mapFields fun j v => fitField w (BitVec.ofNat 8 ((Config.wideField (k + j)).toNat % 2 ^ w)) v
  if drawn.legal then drawn else t.mapFields fun _ v => fitField w (BitVec.ofNat 8 (2 ^ w - 1)) v

/-- What NBT or DBT holds once `t` is written to it. -/
def State.storedTiming (s : State) (t : BitTiming) : BitTiming :=
  t.stored s.params.timingWidth s.draws

/-- The free values taken once `t` is written to NBT or DBT: a number for each field where one does not fit (log entry 20). -/
def State.timingDraws (s : State) (t : BitTiming) : Nat :=
  if t.fits s.params.timingWidth then s.draws else s.draws + 5

/-- `NBT_SEG` or `DBT_SEG` of a timing (20_memory R63). -/
def BitTiming.segWord (t : BitTiming) : Word :=
  place t.sjw 24 ||| place t.ph2 16 ||| place t.ph1 8 ||| place t.prop 0

/-- `NBT_BRP` or `DBT_BRP` of a timing (20_memory R63). -/
def BitTiming.brpWord (t : BitTiming) : Word :=
  placeBit t.valid 31 ||| place t.brp 0

/-! ### The DLC table -/

/-- `DlcToLen(dlc, fdf)` (40_config_frame R135). -/
def dlcToLen (dlc : BitVec 4) (fdf : Bool) : BitVec 7 :=
  match dlc.toNat with
  | 9 => if fdf then 12 else 8
  | 10 => if fdf then 16 else 8
  | 11 => if fdf then 20 else 8
  | 12 => if fdf then 24 else 8
  | 13 => if fdf then 32 else 8
  | 14 => if fdf then 48 else 8
  | 15 => if fdf then 64 else 8
  | n => BitVec.ofNat 7 n

/-- `LenToDlc(n, fdf)`, none where it is not defined (40_config_frame R136). -/
def lenToDlc (n : Nat) (fdf : Bool) : Option (BitVec 4) :=
  if n ≤ 8 then some (BitVec.ofNat 4 n)
  else if fdf then
    match n with
    | 12 => some 9
    | 16 => some 10
    | 20 => some 11
    | 24 => some 12
    | 32 => some 13
    | 48 => some 14
    | 64 => some 15
    | _ => none
  else none

/-! ### Selections -/

/-- `SelTQ`: the quantum FORCE_TQ and FORCE_CYCLE name, by absolute index (`rel` false) or relative to a phase
(41_bit_timing R182). -/
def selTq (b : BitRec) (rel : Bool) (phase : Phase) (n : Nat) : Except Err Nat :=
  if rel then
    match b.first phase with
    | some k => if n ≥ b.count phase then .error .range else .ok (k + n)
    | none => .error .range
  else if phase ≠ .sync then .error .arg
  else if n ≥ b.tqs.length then .error .range
  else .ok n

/-- The indices, counted from `k` and in increasing order, of the bits that satisfy `p` (43_queries R250). -/
def indicesFrom (p : BitRec → Bool) : Nat → List BitRec → List Nat
  | _, [] => []
  | k, b :: bs => if p b then k :: indicesFrom p (k + 1) bs else indicesFrom p (k + 1) bs

/-- The indices of the slot's bits that satisfy `p`. -/
def BitFrame.indices (f : BitFrame) (p : BitRec → Bool) : List Nat :=
  indicesFrom p 0 f.bits

/-- A stuff bit of any kind. -/
def BitRec.isStuff (b : BitRec) : Bool :=
  b.stuff != .none

/-- Membership in `Tagged(f)` (43_queries R250). -/
def BitRec.tagged (t : Tag) (b : BitRec) : Bool :=
  b.tag == t

/-- Membership in `Logical(f)` (43_queries R250). -/
def BitRec.logical (t : Tag) (b : BitRec) : Bool :=
  b.tag == t && b.stuff == .none

/-- `KindOk(b, k)` (43_queries R250). -/
def BitRec.kindOk (k : KindSel) (b : BitRec) : Bool :=
  match k with
  | .any => b.stuff != .none
  | .regular => b.stuff == .regular
  | .fixed => b.stuff == .fixed

/-- `ValOk(b)` for an optional value filter (43_queries R250). -/
def BitRec.valOk (v : Option Level) (b : BitRec) : Bool :=
  match v with
  | none => true
  | some x => b.value == x

/-- Whether a bit carries an optional field operand (43_queries R270). -/
def BitRec.fieldOk (t : Option Tag) (b : BitRec) : Bool :=
  match t with
  | none => true
  | some x => b.tag == x

/-- `Destuff`, the destuffed view of a slot (43_queries R251). -/
def BitFrame.destuff (f : BitFrame) : List BitRec :=
  f.bits.filter fun b => b.stuff == .none

/-- Go on with element `n` of a selection, or raise `E_FIELD` where it has fewer (43_queries R265). -/
def nthOf (t : List Nat) (n : Word) : Except Err Nat :=
  match t[n.toNat]? with
  | some i => .ok i
  | none => .error .field

/-! ### Result words -/

/-- The code of a stuff kind in a bit word (30_encoding R97). -/
def StuffKind.code : StuffKind → BitVec 2
  | .none => 0
  | .regular => 1
  | .fixed => 2

/-- A number as a result register holds it. -/
def natWord (n : Nat) : Word := BitVec.ofNat 32 n

/-- The bit word, RESULT0 of READ_BIT (30_encoding R99, 43_queries R261). -/
def BitRec.word (b : BitRec) : Word :=
  placeBit b.forced 9 ||| placeBit b.fsp 8 ||| place b.stuff.code 6 ||| placeBit b.value.bit 5 ||| place b.tag.code 0

/-- The phase-count word, RESULT1 of READ_BIT (30_encoding R99, 43_queries R261). -/
def BitRec.countWord (b : BitRec) : Word :=
  place (BitVec.ofNat 8 (b.count .ph2)) 24 ||| place (BitVec.ofNat 8 (b.count .ph1)) 16
    ||| place (BitVec.ofNat 8 (b.count .prop)) 8 ||| place (BitVec.ofNat 8 (b.count .sync)) 0

/-- The TQ word, RESULT0 of READ_TQ (30_encoding R99, 43_queries R262). -/
def tqWord (b : BitRec) (q : Tq) : Word :=
  place (BitVec.ofNat 16 q.len) 16 ||| placeBit q.anyCyc 5 ||| placeBit (effTq b q).bit 4
    ||| placeBit (q.tqf.getD .dominant).bit 3 ||| placeBit q.tqf.isSome 2 ||| place q.phase.code 0

/-- The cycle word, RESULT0 of READ_CYCLE (30_encoding R99, 43_queries R263). -/
def cycleWord (b : BitRec) (q : Tq) (c : Nat) : Word :=
  placeBit (q.cycForce c).isSome 1 ||| placeBit (effCycle b q c).bit 0

/-- The start cycle of quantum `j` within its bit (43_queries R262). -/
def BitRec.startCycle (b : BitRec) (j : Nat) : Nat :=
  ((b.tqs.take j).map Tq.len).sum

/-- `BF_INFO` of a slot (20_memory R63). -/
def BitFrame.infoWord (f : BitFrame) : Word :=
  placeBit f.valid 31 ||| place f.snap.dlc 24 ||| place f.snap.flags.word 16 ||| place (BitVec.ofNat 16 f.bits.length) 0

end Sys2Proof.Machine
end

