-- ==== Sys2Proof/Machine/ConfigFrame.lean ====
section
/-! DEFINITION. The commands that write the timing registers and the frame slots (40_config_frame): NOP, SET_NBT, SET_DBT,
SET_FLAGS, SET_DLC, SET_DLEN, SET_ID, RANDOMIZE, FRAME_EQ, DLC_TO_LEN, LEN_TO_DLC. -/

namespace Sys2Proof.Machine

/-- NOP (40_config_frame R145): nothing. It is dropped while ERR = 1, as every command. -/
def execNop (s : State) : Host.Outcome State Fault Refusal :=
  command s (.ok s)

/-- SET_NBT (40_config_frame R130): the checks on the operands as given, whatever the width of the fields. -/
def execSetNbt (s : State) : Host.Outcome State Fault Refusal :=
  command s ((timingOf s.arg0 s.arg1).map fun t =>
    { s with nbt := s.storedTiming t, draws := s.timingDraws t })

/-- SET_DBT (40_config_frame R131). -/
def execSetDbt (s : State) : Host.Outcome State Fault Refusal :=
  command s ((timingOf s.arg0 s.arg1).map fun t =>
    { s with dbt := s.storedTiming t, draws := s.timingDraws t })

/-- What SET_FLAGS leaves of a frame slot when it stores the normalised flags `f` (40_config_frame R134). -/
def Frame.withFlags (fr : Frame) (f : FrameFlags) : Frame :=
  { fr with flags := f, dlen := dlcToLen fr.dlc f.fdf }

/-- SET_FLAGS (40_config_frame R134). -/
def execSetFlags (fs : FsIx) (s : State) : Host.Outcome State Fault Refusal :=
  command s <|
    if s.arg0.extractLsb' 5 27 ≠ 0 then .error .arg
    else
      let f := FrameFlags.ofWord s.arg0
      .ok { s.setFrame fs ((s.frame fs).withFlags f.normalize) with status := s.status.warned f }

/-- SET_DLC (40_config_frame R137). -/
def execSetDlc (fs : FsIx) (s : State) : Host.Outcome State Fault Refusal :=
  command s <|
    if s.arg0.toNat ≥ 16 then .error .dlc
    else
      let fr := s.frame fs
      let dlc := s.arg0.extractLsb' 0 4
      .ok (s.setFrame fs { fr with dlc := dlc, dlen := dlcToLen dlc fr.flags.fdf })

/-- SET_DLEN (40_config_frame R139). -/
def execSetDlen (fs : FsIx) (s : State) : Host.Outcome State Fault Refusal :=
  command s <|
    let fr := s.frame fs
    match lenToDlc s.arg0.toNat fr.flags.fdf with
    | none => .error .dlen
    | some dlc => .ok (s.setFrame fs { fr with dlc := dlc, dlen := BitVec.ofNat 7 s.arg0.toNat })

/-- SET_ID (40_config_frame R140). -/
def execSetId (fs : FsIx) (s : State) : Host.Outcome State Fault Refusal :=
  command s <|
    let fr := s.frame fs
    if s.arg0.toNat ≥ 2 ^ 29 then .error .id
    else if fr.flags.ide = false ∧ s.arg0.toNat ≥ 2 ^ 11 then .error .id
    else .ok (s.setFrame fs { fr with id := s.arg0.extractLsb' 0 29 })

/-- The mask of an identifier draw: 29 bits in extended format, 11 in base format (40_config_frame R141). -/
def idMask (ide : Bool) : BitVec 29 :=
  if ide then 0x1FFFFFFF else 0x7FF

/-- RANDOMIZE's first part: a drawn DLC where it is marked, and the DLEN of the DLC (40_config_frame R141). -/
def Frame.drawDlc (fr : Frame) (k : Nat) : Frame :=
  let dlc := if fr.rand.getLsbD 0 then Config.draw 4 k else fr.dlc
  { fr with dlc := dlc, dlen := dlcToLen dlc fr.flags.fdf }

/-- RANDOMIZE's second part: a drawn identifier where it is marked. -/
def Frame.drawId (fr : Frame) (k : Nat) : Frame :=
  if fr.rand.getLsbD 1 then { fr with id := Config.draw 29 k &&& idMask fr.flags.ide } else fr

/-- RANDOMIZE's third part: 64 drawn bytes where they are marked. -/
def Frame.drawData (fr : Frame) (k : Nat) : Frame :=
  if fr.rand.getLsbD 2 then { fr with data := Vector.ofFn fun j => Config.draw 8 (k + j.val) } else fr

/-- RANDOMIZE (40_config_frame R141). Draw `k` is for the DLC, `k+1` for the identifier and `k+2` to `k+65` for the data; the
counter moves past all of them where any field is marked, and not at all where none is. Log entry 18. -/
def execRandomize (fs : FsIx) (s : State) : Host.Outcome State Fault Refusal :=
  command s <|
    let fr := (((s.frame fs).drawDlc s.draws).drawId (s.draws + 1)).drawData (s.draws + 2)
    .ok { s.setFrame fs fr with draws := if (s.frame fs).rand = 0 then s.draws else s.draws + 66 }

/-- Frame equality: identifier, DLC, all flags, and the first `DLEN` data bytes (40_config_frame R142). -/
def frameEqual (a b : Frame) : Bool :=
  a.id == b.id && a.dlc == b.dlc && a.flags == b.flags
    && a.data.toList.take a.dlen.toNat == b.data.toList.take a.dlen.toNat

/-- FRAME_EQ (40_config_frame R142). -/
def execFrameEq (s : State) : Host.Outcome State Fault Refusal :=
  command s (.ok (s.setResult0 (if frameEqual (s.frame 0) (s.frame 1) then 1 else 0)))

/-- DLC_TO_LEN, `FLAG` = FDF (40_config_frame R143). -/
def execDlcToLen (flag : Bool) (s : State) : Host.Outcome State Fault Refusal :=
  command s <|
    if s.arg0.toNat ≥ 16 then .error .dlc
    else .ok (s.setResult0 ((dlcToLen (s.arg0.extractLsb' 0 4) flag).setWidth 32))

/-- LEN_TO_DLC, `FLAG` = FDF (40_config_frame R144). -/
def execLenToDlc (flag : Bool) (s : State) : Host.Outcome State Fault Refusal :=
  command s <|
    match lenToDlc s.arg0.toNat flag with
    | none => .error .dlen
    | some dlc => .ok (s.setResult0 (dlc.setWidth 32))

end Sys2Proof.Machine
end

