-- ==== Sys2Proof/Machine/Encoder.lean ====
section
/-! DEFINITION. The frame encoder (42_encoder): layout, regular and fixed stuffing, stuff count, CRC, `Restuff`, and the
commands BUILD and UPDATE. -/

namespace Sys2Proof.Machine

/-! ### Layout -/

/-- The bits of a field of `w` bits, most significant first (42_encoder R211). -/
def msbFirst {w : Nat} (x : BitVec w) : List Level :=
  (List.range w).map fun i => Level.ofBit (x.getMsbD i)

/-- `emit` of a whole field: fresh bits of one tag (42_encoder R211). -/
def emitField (sn : Snap) (tag : Tag) (vs : List Level) : List BitRec :=
  vs.map fun v => newBit sn tag v

/-- A field of one bit whose value is a flag bit, 1 Recessive (42_encoder R216). -/
def flagLevel (b : Bool) : List Level :=
  [Level.ofBit b]

/-- The width of the CRC: 15 in a Classical frame; in an FD frame 17 for a data length up to 16, else 21
(42_encoder R227). -/
def crcWidth (fdf : Bool) (dlen : BitVec 7) : Nat :=
  if fdf then (if dlen.toNat ≤ 16 then 17 else 21) else 15

/-- The data bytes BUILD emits: none of a Classical remote frame, else the first `DLEN` (42_encoder R217). -/
def Frame.dataField (fr : Frame) : List Byte :=
  if fr.flags.fdf = false ∧ fr.flags.rtr = true then [] else fr.data.toList.take fr.dlen.toNat

/-- The fields from SOF up to and including the identifier and, in extended format, the identifier extension; the bits
that follow differ by format (42_encoder R212 to R216). -/
def arbitrationFields (sn : Snap) (fr : Frame) : List BitRec :=
  if fr.flags.ide then
    emitField sn .sof [.dominant] ++ emitField sn .baseIdentifier (msbFirst (fr.id.extractLsb' 18 11))
      ++ emitField sn .srr [.recessive] ++ emitField sn .ide [.recessive]
      ++ emitField sn .identifierExtension (msbFirst (fr.id.extractLsb' 0 18))
  else
    emitField sn .sof [.dominant] ++ emitField sn .baseIdentifier (msbFirst (fr.id.extractLsb' 0 11))

/-- The fields between the identifier and the DLC (42_encoder R212 to R216). -/
def controlFields (sn : Snap) (fr : Frame) : List BitRec :=
  let f := fr.flags
  match f.fdf, f.ide with
  | false, false =>
    emitField sn .rtr (flagLevel f.rtr) ++ emitField sn .ide [.dominant] ++ emitField sn .r0 [.dominant]
  | false, true =>
    emitField sn .rtr (flagLevel f.rtr) ++ emitField sn .r1 [.dominant] ++ emitField sn .r0 [.dominant]
  | true, false =>
    emitField sn .r1 [.dominant] ++ emitField sn .ide [.dominant] ++ emitField sn .edl [.recessive]
      ++ emitField sn .r0 [.dominant] ++ emitField sn .brs (flagLevel f.brs) ++ emitField sn .esi (flagLevel f.esi)
  | true, true =>
    emitField sn .r1 [.dominant] ++ emitField sn .edl [.recessive] ++ emitField sn .r0 [.dominant]
      ++ emitField sn .brs (flagLevel f.brs) ++ emitField sn .esi (flagLevel f.esi)

/-- The CRC field's placeholders, all Dominant: for FD the stuff count and its parity, then the CRC bits
(42_encoder R219). -/
def crcPlaceholders (sn : Snap) (fr : Frame) : List BitRec :=
  (if fr.flags.fdf then
    emitField sn .stuffCount (List.replicate 3 .dominant) ++ emitField sn .stuffParity [.dominant] else [])
  ++ emitField sn .crc (List.replicate (crcWidth fr.flags.fdf fr.dlen) .dominant)

/-- The trailing fields after the CRC (42_encoder R218). -/
def trailingFields (sn : Snap) : List BitRec :=
  emitField sn .crcDelimiter [.recessive] ++ emitField sn .ack [.dominant] ++ emitField sn .ackDelimiter [.recessive]
    ++ emitField sn .eof (List.replicate 7 .recessive) ++ emitField sn .intermission (List.replicate 3 .recessive)

/-- `LogicalFrame(fr)`, the bits BUILD starts from, before stuffing (42_encoder R219). -/
def logicalFrame (sn : Snap) (fr : Frame) : List BitRec :=
  arbitrationFields sn fr ++ controlFields sn fr ++ emitField sn .dlc (msbFirst fr.dlc)
    ++ emitField sn .data (fr.dataField.flatMap fun b => msbFirst b) ++ crcPlaceholders sn fr ++ trailingFields sn

/-! ### Stuffing -/

/-- A fresh stuff bit with the complement of `v` (42_encoder R220, R223). -/
def stuffBit (sn : Snap) (tag : Tag) (v : Level) (kind : StuffKind) (fsp : Bool) : BitRec :=
  { newBit sn tag (flipLevel v) with stuff := kind, fsp := fsp }

/-- `RegStuff`, with the running value `rv` and run length `rl` (42_encoder R220, R222). -/
def regStuffFrom (sn : Snap) (suppressLast : Bool) : Option Level → Nat → List BitRec → List BitRec
  | _, _, [] => []
  | rv, rl, b :: bs =>
    let rl' := if rv = some b.value then rl + 1 else 1
    if rl' = 5 ∧ ¬(suppressLast = true ∧ bs = []) then
      b :: stuffBit sn b.tag b.value .regular false :: regStuffFrom sn suppressLast (some (flipLevel b.value)) 1 bs
    else b :: regStuffFrom sn suppressLast (some b.value) rl' bs

/-- `RegStuff(X, suppress_last)` (42_encoder R220). -/
def regStuff (sn : Snap) (suppressLast : Bool) (bits : List BitRec) : List BitRec :=
  regStuffFrom sn suppressLast none 0 bits

/-- `FixStuff` from position `j` of the CRC field on, after a bit of value `pv` (42_encoder R223, R224). -/
def fixStuffFrom (sn : Snap) : Level → Nat → List BitRec → List BitRec
  | _, _, [] => []
  | pv, j, b :: bs =>
    if j % 4 = 0 then
      stuffBit sn b.tag pv .fixed (j / 4 % 2 == 1) :: b :: fixStuffFrom sn b.value (j + 1) bs
    else b :: fixStuffFrom sn b.value (j + 1) bs

/-- The value of the last bit, Recessive where there is none (42_encoder R223, 92 D52). -/
def lastValue (bits : List BitRec) : Level :=
  (bits.getLast?.map BitRec.value).getD .recessive

/-- `FixStuff(out, post)` (42_encoder R223). -/
def fixStuff (sn : Snap) (out post : List BitRec) : List BitRec :=
  out ++ fixStuffFrom sn (lastValue out) 0 post

/-- The Gray code of a stuff count mod 8 (42_encoder R225). -/
def grayCount (cnt : Nat) : BitVec 3 :=
  let n := BitVec.ofNat 3 cnt
  n ^^^ (n >>> 1)

/-- The parity bit of the stuff count (42_encoder R225). -/
def grayParity (cnt : Nat) : Level :=
  let g := grayCount cnt
  Level.ofBit (g.getLsbD 2 ^^ g.getLsbD 1 ^^ g.getLsbD 0)

/-! ### CRC -/

/-- One step of the CRC register (42_encoder R226). -/
def crcStep {w : Nat} (poly reg : BitVec w) (b : Level) : BitVec w :=
  if b.bit ^^ reg.msb then (reg <<< 1) ^^^ poly else reg <<< 1

/-- `CRC(W, poly, init, bits)` (42_encoder R226). -/
def crc {w : Nat} (poly init : BitVec w) (bits : List Level) : BitVec w :=
  bits.foldl (crcStep poly) init

/-- The CRC bits of a frame in wire order, its polynomial selected by format and data length (42_encoder R226, R227). -/
def crcBits (fdf : Bool) (dlen : BitVec 7) (bits : List Level) : List Level :=
  if fdf then
    if dlen.toNat ≤ 16 then msbFirst (crc 0x1685B#17 0x10000#17 bits) else msbFirst (crc 0x102899#21 0x100000#21 bits)
  else msbFirst (crc 0x4599#15 0#15 bits)

/-- The values of a list of bits. -/
def values (bits : List BitRec) : List Level :=
  bits.map BitRec.value

/-- Give the bits of one tag, in order, the values `vs`; bits beyond the values keep theirs (42_encoder R230). -/
def fillTag (t : Tag) : List Level → List BitRec → List BitRec
  | _, [] => []
  | [], bs => bs
  | v :: vs, b :: bs => if b.tag = t then { b with value := v } :: fillTag t vs bs else b :: fillTag t (v :: vs) bs

/-- The bits of a list with a tag. -/
def ofTag (t : Tag) (bits : List BitRec) : List BitRec :=
  bits.filter fun b => b.tag == t

/-- The bits of a list without a tag. -/
def notTag (t : Tag) (bits : List BitRec) : List BitRec :=
  bits.filter fun b => b.tag != t

/-! ### Restuff -/

/-- A tag of the FD CRC field: `StuffCount`, `StuffParity` or `Crc` (42_encoder R230). -/
def inCrcField (t : Tag) : Bool :=
  t == .stuffCount || t == .stuffParity || t == .crc

/-- `Restuff` on the logical bits of a Classical prefix (42_encoder R228, R230). -/
def restuffClassical (sn : Snap) (recompute : Bool) (l : List BitRec) : Except Err (List BitRec) :=
  if (ofTag .crc l).length > crcWidth false sn.dlen then .error .field
  else
    let l' := if recompute then fillTag .crc (crcBits false sn.dlen (values (notTag .crc l))) l else l
    .ok (regStuff sn false l')

/-- `Restuff` on the logical bits of an FD prefix (42_encoder R225, R229, R230). -/
def restuffFd (sn : Snap) (recompute : Bool) (l : List BitRec) : Except Err (List BitRec) :=
  let pre := l.takeWhile fun b => !inCrcField b.tag
  let post := l.dropWhile fun b => !inCrcField b.tag
  let out := regStuff sn (!post.isEmpty) pre
  let cnt := out.countP fun b => b.stuff == .regular
  if (ofTag .stuffCount post).length > 3 ∨ (ofTag .stuffParity post).length > 1
      ∨ (ofTag .crc post).length > crcWidth true sn.dlen then .error .field
  else
    let post' := fillTag .stuffParity [grayParity cnt] (fillTag .stuffCount (msbFirst (grayCount cnt)) post)
    let post'' :=
      if recompute then fillTag .crc (crcBits true sn.dlen (values out ++ values (notTag .crc post'))) post' else post'
    .ok (fixStuff sn out post'')

/-- `Restuff(BF, recompute)`, from the bits of the slot to its new bits (42_encoder R230). -/
def restuff (sn : Snap) (recompute : Bool) (bits : List BitRec) : Except Err (List BitRec) :=
  let l := (bits.takeWhile fun b => b.tag.inFrame).filter fun b => b.stuff == .none
  let rest := bits.dropWhile fun b => b.tag.inFrame
  (if sn.flags.fdf then restuffFd sn recompute l else restuffClassical sn recompute l).map fun out => out ++ rest

/-! ### Commands -/

/-- The snapshot BUILD takes of a frame slot and the timing registers (42_encoder R233). -/
def snapOf (fr : Frame) (nbt dbt : BitTiming) : Snap where
  flags := fr.flags
  dlc := fr.dlc
  dlen := fr.dlen
  id := fr.id
  nbt := nbt
  dbt := dbt

/-- The bit-frame slot BUILD makes of a frame slot (42_encoder R233); every bit of it is a fresh one. -/
def buildSlot (c : Config.Params) (nbt dbt : BitTiming) (fr : Frame) : Except Err BitFrame :=
  if nbt.valid = false then .error .timing
  else if fr.flags.fdf = true ∧ fr.flags.brs = true ∧ dbt.valid = false then .error .timing
  else if fr.flags.ide = false ∧ fr.id.toNat ≥ 2 ^ 11 then .error .id
  else
    let sn := snapOf fr nbt dbt
    (restuff sn true (logicalFrame sn fr)).bind fun bits =>
      (withinCapacity c bits bits).map fun bits => { valid := true, snap := sn, bits := bits }

/-- BUILD (42_encoder R233). -/
def execBuild (bf : BfIx) (fs : FsIx) (s : State) : Host.Outcome State Fault Refusal :=
  command s ((buildSlot s.params s.nbt s.dbt (s.frame fs)).map fun f => s.setSlot bf f)

/-- The stuff bits of the frame part of a slot, those `Restuff` makes afresh (42_encoder R230). -/
def rebuiltStuff (bits : List BitRec) : List BitRec :=
  (bits.takeWhile fun b => b.tag.inFrame).filter BitRec.isStuff

/-- UPDATE, `FLAG` = recompute_crc (42_encoder R234). -/
def execUpdate (bf : BfIx) (flag : Bool) (s : State) : Host.Outcome State Fault Refusal :=
  command s <|
    withSlot s bf fun f =>
      (restuff f.snap flag f.bits).bind fun bits =>
        (withinCapacity s.params (rebuiltStuff bits) bits).map fun bits => s.setBits bf bits

end Sys2Proof.Machine
end

