-- ==== Sys2Proof/Machine/Structural.lean ====
section
/-! DEFINITION. The structural mutation commands (44_structural): INSERT_BIT, INSERT_BIT_COPY, REMOVE_BIT, APPEND_BIT,
APPEND_BF, REMOVE_BITS_FROM. -/

namespace Sys2Proof.Machine

/-- Insert the bit `x` at position `p`: `E_RANGE` beyond the end, then `E_CAPACITY` (44_structural R290, R291). `made` is the
bit where it is a fresh one, and none where it is a copy. -/
def insertAt (c : Config.Params) (made bits : List BitRec) (p : Word) (x : BitRec) : Except Err (List BitRec) :=
  if p.toNat > bits.length then .error .range else withinCapacity c made (bits.insertIdx p.toNat x)

/-- INSERT_BIT (44_structural R290). -/
def execInsertBit (bf : BfIx) (field : Tag) (val : Level) (s : State) : Host.Outcome State Fault Refusal :=
  command s <|
    withSlot s bf fun f =>
      (insertAt s.params [newBit f.snap field val] f.bits s.arg0 (newBit f.snap field val)).map fun bits => s.setBits bf bits

/-- INSERT_BIT_COPY: bit ARG1 of slot `bf2` copied to position ARG0 of slot `bf` (44_structural R291). -/
def execInsertBitCopy (bf bf2 : BfIx) (s : State) : Host.Outcome State Fault Refusal :=
  command s <|
    withSlot s bf fun f => withSlot s bf2 fun g => withBit g s.arg1 fun x =>
      (insertAt s.params [] f.bits s.arg0 x).map fun bits => s.setBits bf bits

/-- REMOVE_BIT, by position or, with `FLAG` = 1, by field and index (44_structural R292). -/
def execRemoveBit (bf : BfIx) (flag : Bool) (field : Option Tag) (s : State) : Host.Outcome State Fault Refusal :=
  command s <|
    withSlot s bf fun f =>
      match flag, field with
      | false, some _ => .error .arg
      | false, none => withBit f s.arg0 fun _ => .ok (s.setBits bf (f.bits.eraseIdx s.arg0.toNat))
      | true, none => .error .arg
      | true, some t =>
        (nthOf (f.indices (BitRec.tagged t)) s.arg0).map fun p => s.setBits bf (f.bits.eraseIdx p)

/-- APPEND_BIT (44_structural R293). -/
def execAppendBit (bf : BfIx) (field : Tag) (val : Level) (s : State) : Host.Outcome State Fault Refusal :=
  command s <|
    withSlot s bf fun f =>
      (withinCapacity s.params [newBit f.snap field val] (f.bits ++ [newBit f.snap field val])).map fun bits => s.setBits bf bits

/-- APPEND_BF: the bits of slot `bf2` copied to the end of slot `bf` (44_structural R294). -/
def execAppendBf (bf bf2 : BfIx) (s : State) : Host.Outcome State Fault Refusal :=
  command s <|
    withSlot s bf fun f => withSlot s bf2 fun g =>
      (withinCapacity s.params [] (f.bits ++ g.bits)).map fun bits => s.setBits bf bits

/-- REMOVE_BITS_FROM (44_structural R295). -/
def execRemoveBitsFrom (bf : BfIx) (s : State) : Host.Outcome State Fault Refusal :=
  command s <|
    withSlot s bf fun f =>
      if s.arg0.toNat > f.bits.length then .error .range
      else .ok (s.setBits bf (f.bits.take s.arg0.toNat))

end Sys2Proof.Machine
end

