-- ==== Sys2Proof/Machine/ProtocolFault.lean ====
section
/-! DEFINITION. The protocol-fault helper commands (45_protocol_faults): TURN_RX, INS_ACT_ERR, INS_PAS_ERR, INS_OVR,
LOOSE_ARB, FLIP_BIT, FLIP_COMP, APPEND_SUSPEND. -/

namespace Sys2Proof.Machine

/-- TURN_RX (45_protocol_faults R310). -/
def execTurnRx (bf : BfIx) (s : State) : Host.Outcome State Fault Refusal :=
  command s <|
    withSlot s bf fun f => .ok (s.setBits bf (f.bits.map BitRec.received))

/-- INS_ACT_ERR (45_protocol_faults R312). -/
def execInsActErr (bf : BfIx) (s : State) : Host.Outcome State Fault Refusal :=
  command s <|
    withSlot s bf fun f =>
      (insFrame s.params f s.arg0.toNat .activeErrorFlag .dominant .errorDelimiter).map fun bits => s.setBits bf bits

/-- INS_PAS_ERR (45_protocol_faults R313). -/
def execInsPasErr (bf : BfIx) (s : State) : Host.Outcome State Fault Refusal :=
  command s <|
    withSlot s bf fun f =>
      (insFrame s.params f s.arg0.toNat .passiveErrorFlag .recessive .errorDelimiter).map fun bits => s.setBits bf bits

/-- INS_OVR (45_protocol_faults R314). -/
def execInsOvr (bf : BfIx) (s : State) : Host.Outcome State Fault Refusal :=
  command s <|
    withSlot s bf fun f =>
      (insFrame s.params f s.arg0.toNat .overloadFlag .dominant .overloadDelimiter).map fun bits => s.setBits bf bits

/-- LOOSE_ARB (45_protocol_faults R315). -/
def execLooseArb (bf : BfIx) (s : State) : Host.Outcome State Fault Refusal :=
  command s <|
    withSlot s bf fun f => withBit f s.arg0 fun _ =>
      .ok (s.setBits bf (f.bits.take s.arg0.toNat ++ (f.bits.drop s.arg0.toNat).map BitRec.received))

/-- FLIP_BIT (45_protocol_faults R316). -/
def execFlipBit (bf : BfIx) (s : State) : Host.Outcome State Fault Refusal :=
  command s <|
    withSlot s bf fun f => withBit f s.arg0 fun b =>
      .ok (s.setBits bf (f.bits.set s.arg0.toNat b.flip))

/-- FLIP_COMP, its input delay ARG1 in clock cycles (45_protocol_faults R317). -/
def execFlipComp (bf : BfIx) (s : State) : Host.Outcome State Fault Refusal :=
  command s <|
    withSlot s bf fun f => withBit f s.arg0 fun b =>
      (compensateBit s.params b s.arg1.toNat).map fun b' => s.setBits bf (f.bits.set s.arg0.toNat b')

/-- APPEND_SUSPEND (45_protocol_faults R318). -/
def execAppendSuspend (bf : BfIx) (s : State) : Host.Outcome State Fault Refusal :=
  command s <|
    withSlot s bf fun f =>
      let new := List.replicate 8 (newBit f.snap .suspend .recessive)
      (withinCapacity s.params new (f.bits ++ new)).map fun bits => s.setBits bf bits

end Sys2Proof.Machine
end

