-- ==== Sys2Proof/Machine/Query.lean ====
section
/-! DEFINITION. The queries and the read-out (43_queries): READ_LEN, READ_BIT, READ_TQ, READ_CYCLE, BIT_CYCLES, GET_BIT_OF,
GET_BIT_OF_NS, GET_RANDOM_BIT_OF, GET_STUFF_BIT, GET_BIT_INDEX, GET_NUM_STUFF. -/

namespace Sys2Proof.Machine

/-- READ_LEN (43_queries R260). -/
def execReadLen (bf : BfIx) (s : State) : Host.Outcome State Fault Refusal :=
  command s <|
    withSlot s bf fun f => .ok (s.setResult0 (natWord f.bits.length))

/-- READ_BIT (43_queries R261). -/
def execReadBit (bf : BfIx) (s : State) : Host.Outcome State Fault Refusal :=
  command s <|
    withSlot s bf fun f => withBit f s.arg0 fun b => .ok (s.setResults b.word b.countWord)

/-- READ_TQ (43_queries R262). -/
def execReadTq (bf : BfIx) (s : State) : Host.Outcome State Fault Refusal :=
  command s <|
    withSlot s bf fun f => withBit f s.arg0 fun b => withTq b s.arg1.toNat fun q =>
      .ok (s.setResults (tqWord b q) (natWord (b.startCycle s.arg1.toNat)))

/-- READ_CYCLE (43_queries R263). -/
def execReadCycle (bf : BfIx) (s : State) : Host.Outcome State Fault Refusal :=
  command s <|
    withSlot s bf fun f => withBit f s.arg0 fun b => withTq b s.arg1.toNat fun q =>
      if s.arg2.toNat ≥ q.len then .error .range
      else .ok (s.setResult0 (cycleWord b q s.arg2.toNat))

/-- BIT_CYCLES (43_queries R264). -/
def execBitCycles (bf : BfIx) (s : State) : Host.Outcome State Fault Refusal :=
  command s <|
    withSlot s bf fun f => withBit f s.arg0 fun b => .ok (s.setResult0 (natWord b.cycles))

/-- GET_BIT_OF (43_queries R265). -/
def execGetBitOf (bf : BfIx) (field : Tag) (s : State) : Host.Outcome State Fault Refusal :=
  command s <|
    withSlot s bf fun f =>
      (nthOf (f.indices (BitRec.tagged field)) s.arg0).map fun i => s.setResult0 (natWord i)

/-- GET_BIT_OF_NS (43_queries R266). -/
def execGetBitOfNs (bf : BfIx) (field : Tag) (s : State) : Host.Outcome State Fault Refusal :=
  command s <|
    withSlot s bf fun f =>
      (nthOf (f.indices (BitRec.logical field)) s.arg0).map fun i => s.setResult0 (natWord i)

/-- A drawn element of a list: element `d mod length`, none of an empty list (43_queries R267). -/
def pick (cand : List Nat) (d : Nat) : Option Nat :=
  cand[d % cand.length]?

/-- GET_RANDOM_BIT_OF (43_queries R267); it takes one draw where there is a candidate. Log entry 6. -/
def execGetRandomBitOf (bf : BfIx) (field : Tag) (val : Option Level) (s : State) :
    Host.Outcome State Fault Refusal :=
  command s <|
    withSlot s bf fun f =>
      match pick (f.indices fun b => BitRec.logical field b && BitRec.valOk val b) (Config.drawIndex s.draws) with
      | none => .error .field
      | some i => .ok { s.setResult0 (natWord i) with draws := s.draws + 1 }

/-- GET_STUFF_BIT (43_queries R268). -/
def execGetStuffBit (bf : BfIx) (kind : KindSel) (val : Option Level) (s : State) :
    Host.Outcome State Fault Refusal :=
  command s <|
    withSlot s bf fun f =>
      (nthOf (f.indices fun b => BitRec.kindOk kind b && BitRec.valOk val b) s.arg0).map fun i =>
        s.setResult0 (natWord i)

/-- GET_BIT_INDEX: a bit's handle is its index (43_queries R269, 30_encoding R100). -/
def execGetBitIndex (bf : BfIx) (s : State) : Host.Outcome State Fault Refusal :=
  command s <|
    withSlot s bf fun f => withBit f s.arg0 fun _ => .ok (s.setResult0 s.arg0)

/-- GET_NUM_STUFF (43_queries R270). -/
def execGetNumStuff (bf : BfIx) (kind : KindSel) (field : Option Tag) (val : Option Level) (s : State) :
    Host.Outcome State Fault Refusal :=
  command s <|
    withSlot s bf fun f =>
      .ok (s.setResult0 (natWord (f.bits.countP fun b =>
        BitRec.kindOk kind b && BitRec.valOk val b && BitRec.fieldOk field b)))

end Sys2Proof.Machine
end

