-- ==== Sys2Proof/Machine/Registers.lean ====
section
/-! DEFINITION. The register space (20_memory): which register an address names, what reading it gives, and what writing
it does, for every register but CMD, whose write runs a command (HostPort.lean). -/

namespace Sys2Proof.Machine

/-- The registers of the map (20_memory R63). -/
inductive Reg where
  | cmd | status | statusClr | caps
  | arg0 | arg1 | arg2 | arg3 | result0 | result1
  | nbtSeg | nbtBrp | dbtSeg | dbtBrp
  | bfInfo (bf : BfIx)
  | flags (fs : FsIx) | dlc (fs : FsIx) | dlen (fs : FsIx) | id (fs : FsIx) | rand (fs : FsIx)
  | data (fs : FsIx) (w : Fin 16)
  deriving DecidableEq, Repr

/-- The register of frame slot `fs` at offset `o` in its 0x80 bytes (20_memory R63). -/
def frameReg (fs : FsIx) (o : Nat) : Option Reg :=
  match o with
  | 0x00 => some (.flags fs)
  | 0x04 => some (.dlc fs)
  | 0x08 => some (.dlen fs)
  | 0x0C => some (.id fs)
  | 0x10 => some (.rand fs)
  | _ => if 0x40 ≤ o ∧ o < 0x80 ∧ o % 4 = 0 then some (.data fs (Fin.ofNat 16 ((o - 0x40) / 4))) else none

/-- A register of bit-frame slot `bf`, listed where the block has that slot (20_memory R63). -/
def bfReg (c : Config.Params) (bf : BfIx) : Option Reg :=
  if bf.val < c.bfSlots then some (.bfInfo bf) else none

/-- The register at an address in a block with parameters `c`, none where the map lists none (20_memory R62, R63). -/
def regAt (c : Config.Params) (a : Addr) : Option Reg :=
  match a.toNat with
  | 0x000 => some .cmd
  | 0x004 => some .status
  | 0x008 => some .statusClr
  | 0x00C => some .caps
  | 0x010 => some .arg0
  | 0x014 => some .arg1
  | 0x018 => some .arg2
  | 0x01C => some .arg3
  | 0x020 => some .result0
  | 0x024 => some .result1
  | 0x030 => some .nbtSeg
  | 0x034 => some .nbtBrp
  | 0x038 => some .dbtSeg
  | 0x03C => some .dbtBrp
  | 0x040 => bfReg c 0
  | 0x044 => bfReg c 1
  | 0x048 => bfReg c 2
  | 0x04C => bfReg c 3
  | n =>
    if 0x100 ≤ n ∧ n < 0x180 ∧ 0 < c.frameSlots then frameReg 0 (n - 0x100)
    else if 0x180 ≤ n ∧ n < 0x200 ∧ 1 < c.frameSlots then frameReg 1 (n - 0x180)
    else none

/-- CAPS, constant in a block: it shows the block's parameters (10_state R27). -/
def capsWord (c : Config.Params) : Word :=
  place (BitVec.ofNat 16 c.maxBits) 16 ||| place (BitVec.ofNat 8 c.frameSlots) 8 ||| place (BitVec.ofNat 8 c.bfSlots) 0

/-- The number `4w + k` of the byte in lane `k` of data-window word `w` (20_memory R64). -/
def byteIx (w : Fin 16) (k : Fin 4) : Fin Config.windowBytes :=
  ⟨4 * w.val + k.val, by show _ < 64; omega⟩

/-- Byte `4w + k` of a frame slot's data buffer. -/
def Frame.byte (fr : Frame) (w : Fin 16) (k : Fin 4) : Byte :=
  fr.data[byteIx w k]

/-- The data-window word `w`, byte `4w` least significant (20_memory R64). -/
def Frame.dataWord (fr : Frame) (w : Fin 16) : Word :=
  place (fr.byte w 3) 24 ||| place (fr.byte w 2) 16 ||| place (fr.byte w 1) 8 ||| place (fr.byte w 0) 0

/-- A frame slot after a write of `v` to data-window word `w`: all four bytes are replaced (20_memory R64). -/
def Frame.setDataWord (fr : Frame) (w : Fin 16) (v : Word) : Frame :=
  { fr with data :=
      (((fr.data.set (byteIx w 0) (v.extractLsb' 0 8)).set (byteIx w 1) (v.extractLsb' 8 8)).set
        (byteIx w 2) (v.extractLsb' 16 8)).set (byteIx w 3) (v.extractLsb' 24 8) }

/-- What a read of a register gives; a write-only register gives 0 (20_memory R62, R63). -/
def readReg (s : State) : Reg → Word
  | .cmd => 0
  | .status => s.status.word
  | .statusClr => 0
  | .caps => capsWord s.params
  | .arg0 => s.arg0
  | .arg1 => s.arg1
  | .arg2 => s.arg2
  | .arg3 => s.arg3
  | .result0 => s.result0
  | .result1 => s.result1
  | .nbtSeg => s.nbt.segWord
  | .nbtBrp => s.nbt.brpWord
  | .dbtSeg => s.dbt.segWord
  | .dbtBrp => s.dbt.brpWord
  | .bfInfo bf => (s.slot bf).infoWord
  | .flags fs => (s.frame fs).flags.word
  | .dlc fs => (s.frame fs).dlc.setWidth 32
  | .dlen fs => (s.frame fs).dlen.setWidth 32
  | .id fs => (s.frame fs).id.setWidth 32
  | .rand fs => (s.frame fs).rand.setWidth 32
  | .data fs w => (s.frame fs).dataWord w

/-- What a read at an address gives: 0 where the map lists no register (20_memory R62). -/
def readAt (s : State) (a : Addr) : Word :=
  match regAt s.params a with
  | some r => readReg s r
  | none => 0

/-- What a write to a register other than CMD leaves; a write to a read-only register is ignored (20_memory R62, R63). -/
def writeReg (s : State) (v : Word) : Reg → State
  | .cmd => s
  | .status => s
  | .statusClr => clearStatus s v
  | .caps => s
  | .arg0 => { s with arg0 := v }
  | .arg1 => { s with arg1 := v }
  | .arg2 => { s with arg2 := v }
  | .arg3 => { s with arg3 := v }
  | .result0 => s
  | .result1 => s
  | .nbtSeg => s
  | .nbtBrp => s
  | .dbtSeg => s
  | .dbtBrp => s
  | .bfInfo _ => s
  | .flags _ => s
  | .dlc _ => s
  | .dlen _ => s
  | .id _ => s
  | .rand fs => s.setFrame fs { s.frame fs with rand := v.extractLsb' 0 3 }
  | .data fs w => s.setFrame fs ((s.frame fs).setDataWord w v)

/-- Whether a host access is admitted: 32 bits wide, at a multiple of 4 (20_memory R61). -/
def admitted (a : Addr) (bytes : Nat) : Bool :=
  bytes == 4 && a.toNat % 4 == 0

/-- Whether an event is the reset or an admitted access. -/
def HostEvent.admitted : HostEvent → Bool
  | .read a n => Machine.admitted a n
  | .write a n _ => Machine.admitted a n
  | .reset => true

end Sys2Proof.Machine
end

