-- ==== Sys2Proof/Machine/Timing.lean ====
section
/-! DEFINITION. The time-quantum commands (41_bit_timing): LENGTHEN, SHORTEN, FORCE_TQ, FORCE_CYCLE, FIRST_TQ, LAST_TQ,
PREV_PHASE, RESYNC. -/

namespace Sys2Proof.Machine

/-- Replace the bit at index `i` of slot `bf`. -/
def State.setBit (s : State) (bf : BfIx) (i : Word) (b : BitRec) : State :=
  s.setBits bf ((s.slot bf).bits.set i.toNat b)

/-- LENGTHEN (41_bit_timing R180). -/
def execLengthen (bf : BfIx) (phase : Phase) (s : State) : Host.Outcome State Fault Refusal :=
  command s <|
    withSlot s bf fun f => withBit f s.arg0 fun b =>
      (lengthenBit s.params f.snap b phase s.arg1.toNat).map fun b' => s.setBit bf s.arg0 b'

/-- SHORTEN (41_bit_timing R181). -/
def execShorten (bf : BfIx) (phase : Phase) (s : State) : Host.Outcome State Fault Refusal :=
  command s <|
    withSlot s bf fun f => withBit f s.arg0 fun b =>
      (shortenBit b phase s.arg1.toNat).map fun b' => s.setBit bf s.arg0 b'

/-- A quantum forced to `v` as a whole: its cycle forces are cleared (41_bit_timing R183). -/
def Tq.forceAll (q : Tq) (v : Level) : Tq :=
  { q with tqf := some v, cyc := List.replicate q.len none }

/-- A quantum with cycle `c` forced to `v` (41_bit_timing R184). -/
def Tq.forceCyc (q : Tq) (c : Nat) (v : Level) : Tq :=
  { q with cyc := q.cyc.set c (some v) }

/-- FORCE_TQ (41_bit_timing R183). -/
def execForceTq (bf : BfIx) (flag : Bool) (phase : Phase) (val : Level) (s : State) :
    Host.Outcome State Fault Refusal :=
  command s <|
    withSlot s bf fun f => withBit f s.arg0 fun b =>
      (selTq b flag phase s.arg1.toNat).map fun k =>
        s.setBit bf s.arg0 { b with tqs := b.tqs.modify k (Tq.forceAll · val) }

/-- FORCE_CYCLE (41_bit_timing R184). -/
def execForceCycle (bf : BfIx) (flag : Bool) (phase : Phase) (val : Level) (s : State) :
    Host.Outcome State Fault Refusal :=
  command s <|
    withSlot s bf fun f => withBit f s.arg0 fun b =>
      (selTq b flag phase s.arg1.toNat).bind fun k => withTq b k fun q =>
        if s.arg2.toNat ≥ q.len then .error .range
        else .ok (s.setBit bf s.arg0 { b with tqs := b.tqs.modify k (Tq.forceCyc · s.arg2.toNat val) })

/-- FIRST_TQ (41_bit_timing R185). -/
def execFirstTq (bf : BfIx) (phase : Phase) (s : State) : Host.Outcome State Fault Refusal :=
  command s <|
    withSlot s bf fun f => withBit f s.arg0 fun b =>
      match b.first phase with
      | none => .error .field
      | some k => .ok (s.setResult0 (natWord k))

/-- LAST_TQ (41_bit_timing R186). -/
def execLastTq (bf : BfIx) (phase : Phase) (s : State) : Host.Outcome State Fault Refusal :=
  command s <|
    withSlot s bf fun f => withBit f s.arg0 fun b =>
      match b.last phase with
      | none => .error .field
      | some k => .ok (s.setResult0 (natWord k))

/-- The latest phase before `p` that has quanta, none where there is none (41_bit_timing R187). -/
def BitRec.prevPhase (b : BitRec) (p : Phase) : Option Phase :=
  ([Phase.ph1, .prop, .sync].filter fun q => phaseBefore q p && b.count q != 0).head?

/-- PREV_PHASE (41_bit_timing R187). -/
def execPrevPhase (bf : BfIx) (phase : Phase) (s : State) : Host.Outcome State Fault Refusal :=
  command s <|
    withSlot s bf fun f => withBit f s.arg0 fun b =>
      match b.prevPhase phase with
      | none => .error .field
      | some q => .ok (s.setResult0 (q.code.setWidth 32))

/-- The size of a resynchronization by phase error `e`: `min(|e|, sjw)`, with the SJW of the phase it acts on
(41_bit_timing R188). -/
def resyncBy (sn : Snap) (b : BitRec) (e : Int) : Nat :=
  if e > 0 then min e.toNat (sn.timing b.tag .ph1).sjw.toNat
  else if e < 0 then min (-e).toNat (sn.timing b.tag .ph2).sjw.toNat
  else 0

/-- The bit after a resynchronization by phase error `e` (41_bit_timing R188). -/
def resyncBit (c : Config.Params) (sn : Snap) (b : BitRec) (e : Int) : Except Err BitRec :=
  if e > 0 then lengthenBit c sn b .ph1 (resyncBy sn b e)
  else if e < 0 then shortenBit b .ph2 (resyncBy sn b e)
  else .ok b

/-- RESYNC, its phase error ARG1 as a signed number (41_bit_timing R188). -/
def execResync (bf : BfIx) (s : State) : Host.Outcome State Fault Refusal :=
  command s <|
    withSlot s bf fun f => withBit f s.arg0 fun b =>
      (resyncBit s.params f.snap b s.arg1.toInt).map fun b' =>
        (s.setBit bf s.arg0 b').setResult0 (natWord (resyncBy f.snap b s.arg1.toInt))

end Sys2Proof.Machine
end

