-- ==== Sys2Proof/Machine/Dispatch.lean ====
section
/-! DEFINITION. One arm per command: the definition that gives its meaning (30_encoding R93). -/

namespace Sys2Proof.Machine

/-- Execute a command (30_encoding R104 steps 1 and 5 to 8). -/
def exec (i : Instr) (s : State) : Host.Outcome State Fault Refusal :=
  match i with
  | .nop => Sys2Proof.Machine.execNop s
  | .setNbt => Sys2Proof.Machine.execSetNbt s
  | .setDbt => Sys2Proof.Machine.execSetDbt s
  | .setFlags fs => Sys2Proof.Machine.execSetFlags fs s
  | .setDlc fs => Sys2Proof.Machine.execSetDlc fs s
  | .setDlen fs => Sys2Proof.Machine.execSetDlen fs s
  | .setId fs => Sys2Proof.Machine.execSetId fs s
  | .randomize fs => Sys2Proof.Machine.execRandomize fs s
  | .frameEq => Sys2Proof.Machine.execFrameEq s
  | .dlcToLen flag => Sys2Proof.Machine.execDlcToLen flag s
  | .lenToDlc flag => Sys2Proof.Machine.execLenToDlc flag s
  | .build bf fs => Sys2Proof.Machine.execBuild bf fs s
  | .update bf flag => Sys2Proof.Machine.execUpdate bf flag s
  | .readLen bf => Sys2Proof.Machine.execReadLen bf s
  | .readBit bf => Sys2Proof.Machine.execReadBit bf s
  | .readTq bf => Sys2Proof.Machine.execReadTq bf s
  | .readCycle bf => Sys2Proof.Machine.execReadCycle bf s
  | .bitCycles bf => Sys2Proof.Machine.execBitCycles bf s
  | .getBitOf bf field => Sys2Proof.Machine.execGetBitOf bf field s
  | .getBitOfNs bf field => Sys2Proof.Machine.execGetBitOfNs bf field s
  | .getRandomBitOf bf field val => Sys2Proof.Machine.execGetRandomBitOf bf field val s
  | .getStuffBit bf kind val => Sys2Proof.Machine.execGetStuffBit bf kind val s
  | .getBitIndex bf => Sys2Proof.Machine.execGetBitIndex bf s
  | .getNumStuff bf kind field val => Sys2Proof.Machine.execGetNumStuff bf kind field val s
  | .insertBit bf field val => Sys2Proof.Machine.execInsertBit bf field val s
  | .insertBitCopy bf bf2 => Sys2Proof.Machine.execInsertBitCopy bf bf2 s
  | .removeBit bf flag field => Sys2Proof.Machine.execRemoveBit bf flag field s
  | .appendBit bf field val => Sys2Proof.Machine.execAppendBit bf field val s
  | .appendBf bf bf2 => Sys2Proof.Machine.execAppendBf bf bf2 s
  | .removeBitsFrom bf => Sys2Proof.Machine.execRemoveBitsFrom bf s
  | .turnRx bf => Sys2Proof.Machine.execTurnRx bf s
  | .insActErr bf => Sys2Proof.Machine.execInsActErr bf s
  | .insPasErr bf => Sys2Proof.Machine.execInsPasErr bf s
  | .insOvr bf => Sys2Proof.Machine.execInsOvr bf s
  | .looseArb bf => Sys2Proof.Machine.execLooseArb bf s
  | .flipBit bf => Sys2Proof.Machine.execFlipBit bf s
  | .flipComp bf => Sys2Proof.Machine.execFlipComp bf s
  | .appendSuspend bf => Sys2Proof.Machine.execAppendSuspend bf s
  | .lengthen bf phase => Sys2Proof.Machine.execLengthen bf phase s
  | .shorten bf phase => Sys2Proof.Machine.execShorten bf phase s
  | .forceTq bf flag phase val => Sys2Proof.Machine.execForceTq bf flag phase val s
  | .forceCycle bf flag phase val => Sys2Proof.Machine.execForceCycle bf flag phase val s
  | .firstTq bf phase => Sys2Proof.Machine.execFirstTq bf phase s
  | .lastTq bf phase => Sys2Proof.Machine.execLastTq bf phase s
  | .prevPhase bf phase => Sys2Proof.Machine.execPrevPhase bf phase s
  | .resync bf => Sys2Proof.Machine.execResync bf s

end Sys2Proof.Machine
end

