-- ==== Sys2Proof/Machine/HostPort.lean ====
section
/-! DEFINITION. The host port: what a write to CMD does, and what the block does on each event of the host or the platform
(20_memory R61 to R66, 70_reset R370, R387). -/

namespace Sys2Proof.Machine

/-- The command `i` of word `w` names slots the block has; a field it does not use is 0. FRAME_EQ names both frame slots
(40_config_frame R142). So in every block with the slots of 00_scope R8. Log entry 8. -/
def slotsExist (c : Config.Params) (w : Word) (i : Instr) : Bool :=
  let f := C32.ofWord w
  f.bf.toNat < c.bfSlots && f.bf2.toNat < c.bfSlots && f.fs.toNat < c.frameSlots && (i != .frameEq || 2 ≤ c.frameSlots)

/-- A word written to CMD: decoded and executed in full (10_state R28, 30_encoding R104). A word the decoder refuses is a
command that fails; while ERR = 1 it is dropped like any other. DESIGN CHOICE: a command that names an absent slot is refused
after the checks of the decoder and before those of R104 steps 5 to 7 (log entry 8). -/
def runWord (w : Word) (s : State) : Host.Outcome State Fault Refusal :=
  match decode w with
  | .error e => command s (.error (decodeErr e))
  | .ok i =>
    if slotsExist s.params w i then exec i s
    else if s.status.err then .next (dropCommand s) else .refused .absentSlot

/-- An admitted write of `v` at an address: a command at CMD, nothing where the map lists no register (20_memory R62). -/
def writeAt (a : Addr) (v : Word) (s : State) : Host.Outcome State Fault Refusal :=
  match regAt s.params a with
  | some .cmd => runWord v s
  | some r => .next (writeReg s v r)
  | none => .next s

/-- The state after the reset input is asserted: every piece of the block's state as after power-on, the DATA bytes the next
draws (70_reset R370). What is not the block's stays: the host's coming events and the word it last read. Log entry 9. -/
def resetEvent (s : State) : State :=
  { State.resetAt s.params s.draws with readData := s.readData, pending := s.pending }

/-- Serve one event: a read gives back the register's value and has no side effect, a write has its effect, an access that
is not admitted has no step (20_memory R61, R66, 70_reset R387). -/
def serve (e : HostEvent) (s : State) : Host.Outcome State Fault Refusal :=
  match e with
  | .read a n => if admitted a n then .next { s with readData := readAt s a } else .fault (.notAdmitted a n)
  | .write a n v => if admitted a n then writeAt a v s else .fault (.notAdmitted a n)
  | .reset => .next (resetEvent s)

/-- The state once the head of `pending` is taken off. -/
def State.popped (s : State) : State :=
  { s with pending := s.pending.tail }

/-- A command word as the host writes it: 32 bits at the address of CMD (10_state R28, 20_memory R63). -/
def cmdWrite (w : Word) : HostEvent :=
  .write 0x000 4 w

end Sys2Proof.Machine
end

