-- ==== Sys2Proof/Machine/Step.lean ====
section
/-! DEFINITION. One step of the machine: serve the next pending event of the host; with none pending the block does nothing
(70_reset R371). -/

namespace Sys2Proof.Machine

/-- One step (20_memory R69). Log entries 1 and 2. -/
def step (s : State) : Host.Outcome State Fault Refusal :=
  match s.pending with
  | [] => .next s
  | e :: _ => serve e s.popped

/-- `s` with the command word `w` as the host's next write, so that the next step runs it. The block fetches nothing
(20_memory R71): its instructions are what the host writes to CMD. Log entry 1. -/
def State.withFetchWord (s : State) (nbits w : Nat) : State :=
  { s with pending := cmdWrite (BitVec.ofNat 32 (w % 2 ^ nbits)) :: s.pending }

end Sys2Proof.Machine
end

