-- ==== Sys2Proof/Safety.lean ====
section
/-! DEFINITION. What counts as a good state and a safe run of the host, in the terms the statements use. -/

namespace Sys2Proof

/-- Parameters a CANBF can have: slots the command word can name, results that hold every count, and the 64 bytes of the data
window, and timing fields that hold a `brp` of 1 (00_scope R8, 10_state R27, R29, 43_queries R261, R262, 93 I10). -/
structure Config.Params.Legal (c : Config.Params) : Prop where
  bfSlots       : 1 ≤ c.bfSlots ∧ c.bfSlots ≤ 4
  frameSlots    : 1 ≤ c.frameSlots ∧ c.frameSlots ≤ 2
  maxBits       : c.maxBits < 2 ^ 16
  maxTqPerPhase : 1 ≤ c.maxTqPerPhase ∧ c.maxTqPerPhase ≤ 255
  maxTqCycles   : c.maxTqCycles < 2 ^ 16
  dataBytes     : 64 ≤ c.dataBytes
  timingWidth   : 1 ≤ c.timingWidth ∧ c.timingWidth ≤ 8

/-- The block has every slot the command word names: then no command names an absent one. The values of 00_scope R8 are
such. -/
def Config.Params.Covers (c : Config.Params) : Prop :=
  4 ≤ c.bfSlots ∧ 2 ≤ c.frameSlots

/-- The block has at least the room of the values of 00_scope R8 for a built frame. -/
def Config.Params.Roomy (c : Config.Params) : Prop :=
  4096 ≤ c.maxBits ∧ 255 ≤ c.maxTqPerPhase ∧ 255 ≤ c.maxTqCycles

end Sys2Proof

namespace Sys2Proof.Machine

/-- A TQ record as 10_state R38 describes it: 1 to `MAX_TQ_CYCLES` cycles, one force entry per cycle. -/
def Tq.Wf (c : Config.Params) (q : Tq) : Prop :=
  1 ≤ q.len ∧ q.len ≤ c.maxTqCycles ∧ q.cyc.length = q.len

/-- The phases of a list of quanta stand in time order, so each phase is one consecutive run (10_state R37). -/
def phasesOrdered (tqs : List Tq) : Prop :=
  (tqs.map fun q => q.phase.code.toNat).Pairwise (· ≤ ·)

/-- A bit record as 10_state R37 describes it: ordered phases of at most `MAX_TQ_PER_PHASE` quanta each, and `fsp` only on a
fixed stuff bit. -/
structure BitRec.Wf (c : Config.Params) (b : BitRec) : Prop where
  ordered : phasesOrdered b.tqs
  counts  : ∀ p : Phase, b.count p ≤ c.maxTqPerPhase
  quanta  : ∀ q ∈ b.tqs, q.Wf c
  fsp     : b.fsp = true → b.stuff = .fixed

/-- A timing register holds its reset value or a legal timing, within the width of its fields (00_scope R8, 10_state R29,
R30). -/
def BitTiming.Wf (c : Config.Params) (t : BitTiming) : Prop :=
  if t.valid then
    t.sjw.toNat ≤ t.prop.toNat + t.ph1.toNat + 1 ∧ t.sjw.toNat ≤ t.ph2.toNat ∧ 1 ≤ t.brp.toNat ∧
      ∀ x ∈ [t.prop, t.ph1, t.ph2, t.sjw, t.brp], x.toNat < 2 ^ c.timingWidth
  else t = BitTiming.reset

/-- The constraints the frame flags meet after normalisation (10_state R32). -/
def FrameFlags.Legal (f : FrameFlags) : Prop :=
  (f.fdf = true → f.rtr = false) ∧ (f.fdf = false → f.brs = false ∧ f.esi = false)

/-- A frame slot's flags are legal and its DLEN is the length of its DLC (10_state R32, R33, 40_config_frame R138). -/
def Frame.Wf (fr : Frame) : Prop :=
  fr.flags.Legal ∧ fr.dlen = dlcToLen fr.dlc fr.flags.fdf

/-- The snapshot of a built slot holds what BUILD admits (42_encoder R233). -/
structure Snap.Wf (c : Config.Params) (sn : Snap) : Prop where
  flags : sn.flags.Legal
  dlen  : sn.dlen = dlcToLen sn.dlc sn.flags.fdf
  id    : sn.flags.ide = false → sn.id.toNat < 2 ^ 11
  nbt   : sn.nbt.valid = true ∧ sn.nbt.Wf c
  dbt   : (sn.flags.fdf = true → sn.flags.brs = true → sn.dbt.valid = true) ∧ sn.dbt.Wf c

/-- A bit-frame slot is as after reset, or built: its snapshot is good, it holds at most `MAX_BITS` bits, each a good bit
record (10_state R36, 20_memory R67). -/
def BitFrame.Wf (c : Config.Params) (f : BitFrame) : Prop :=
  if f.valid then f.snap.Wf c ∧ f.bits.length ≤ c.maxBits ∧ ∀ b ∈ f.bits, b.Wf c
  else f = BitFrame.reset

/-- ERR is 1 exactly when ECODE records an error, one of 0x01 to 0x0D (60_exceptions R340, R341). -/
def Status.Wf (st : Status) : Prop :=
  (st.err = true ↔ st.ecode ≠ 0) ∧ st.ecode.toNat ≤ 0x0D

/-- The invariant of the machine. -/
structure State.Inv (s : State) : Prop where
  params : s.params.Legal
  status : s.status.Wf
  nbt    : s.nbt.Wf s.params
  dbt    : s.dbt.Wf s.params
  frames : ∀ fs : FsIx, (s.frame fs).Wf ∧ (s.frame fs).spare.length = s.params.spareBytes
  slots  : ∀ bf : BfIx, (s.slot bf).Wf s.params

/-- The host makes only admitted accesses: every pending event is the reset or a 32-bit aligned access (20_memory R61). -/
def State.hostAdmitted (s : State) : Prop :=
  ∀ e ∈ s.pending, e.admitted = true

/-! ### Terms of the statements -/

/-- A bit has a phase of more than `MAX_TQ_PER_PHASE` quanta or a quantum of more than `MAX_TQ_CYCLES` cycles
(20_memory R67). -/
def BitRec.tooBig (c : Config.Params) (b : BitRec) : Bool :=
  c.maxTqPerPhase < b.count .sync || c.maxTqPerPhase < b.count .prop || c.maxTqPerPhase < b.count .ph1
    || c.maxTqPerPhase < b.count .ph2 || b.tqs.any fun q => c.maxTqCycles < q.len

/-- The state a failing command leaves: ERR 1 and ECODE `c`, everything else as it was (60_exceptions R341). -/
def State.failed (s : State) (c : BitVec 8) : State :=
  { s with status := { s.status with err := true, ecode := c } }

/-- The (match, mask) pairs of opcode_table.json, rows NOP to LEN_TO_DLC. -/
def tableRowsConfig : List (Word × Word) := [
  (0x00000000, 0xFFFFFFFF), (0x04000000, 0xFFFFFFFF), (0x08000000, 0xFFFFFFFF), (0x0C000000, 0xFFDFFFFF),
  (0x10000000, 0xFFDFFFFF), (0x14000000, 0xFFDFFFFF), (0x18000000, 0xFFDFFFFF), (0x1C000000, 0xFFDFFFFF),
  (0x20000000, 0xFFFFFFFF), (0x24000000, 0xFFEFFFFF), (0x28000000, 0xFFEFFFFF)]

/-- The (match, mask) pairs of opcode_table.json, rows BUILD to GET_NUM_STUFF. -/
def tableRowsQuery : List (Word × Word) := [
  (0x40000000, 0xFCDFFFFF), (0x44000000, 0xFCEFFFFF), (0x48000000, 0xFCFFFFFF), (0x4C000000, 0xFCFFFFFF),
  (0x50000000, 0xFCFFFFFF), (0x54000000, 0xFCFFFFFF), (0x58000000, 0xFCFFFFFF), (0x5C008000, 0xFCFF83FF),
  (0x60008000, 0xFCFF83FF), (0x64008000, 0xFCF383FF), (0x68000000, 0xFCF0FFFF), (0x6C000000, 0xFCFFFFFF),
  (0x70000000, 0xFCF003FF)]

/-- The (match, mask) pairs of opcode_table.json, rows INSERT_BIT to APPEND_SUSPEND. -/
def tableRowsEdit : List (Word × Word) := [
  (0x80008000, 0xFCFB83FF), (0x84000000, 0xFC3FFFFF), (0x88000000, 0xFCEF03FF), (0x8C008000, 0xFCFB83FF),
  (0x90000000, 0xFC3FFFFF), (0x94000000, 0xFCFFFFFF), (0xA0000000, 0xFCFFFFFF), (0xA4000000, 0xFCFFFFFF),
  (0xA8000000, 0xFCFFFFFF), (0xAC000000, 0xFCFFFFFF), (0xB0000000, 0xFCFFFFFF), (0xB4000000, 0xFCFFFFFF),
  (0xB8000000, 0xFCFFFFFF), (0xBC000000, 0xFCFFFFFF)]

/-- The (match, mask) pairs of opcode_table.json, rows LENGTHEN to RESYNC. -/
def tableRowsTiming : List (Word × Word) := [
  (0xC0000000, 0xFCFFFCFF), (0xC4000000, 0xFCFFFCFF), (0xC8000000, 0xFCEBFCFF), (0xCC000000, 0xFCEBFCFF),
  (0xD0000000, 0xFCFFFCFF), (0xD4000000, 0xFCFFFCFF), (0xD8000000, 0xFCFFFCFF), (0xDC000000, 0xFCFFFFFF)]

/-- The (match, mask) pairs of opcode_table.json, all 46 rows. -/
def tableRows : List (Word × Word) :=
  tableRowsConfig ++ tableRowsQuery ++ tableRowsEdit ++ tableRowsTiming

/-- The reserved opcodes (30_encoding R94). -/
def reservedOpcodes : List Nat :=
  [0x0B, 0x0C, 0x0D, 0x0E, 0x0F, 0x1D, 0x1E, 0x1F, 0x26, 0x27, 0x38, 0x39, 0x3A, 0x3B, 0x3C, 0x3D, 0x3E, 0x3F]

/-- What a command touches, by the opcode map (30_encoding R93) and its rule: the bit-frame slots it uses and so checks
(30_encoding R104 step 5, BUILD excepted), the slot whose bits it may change, the slot in which ARG0 is an index of an
existing bit, the frame slot it may change, and whether it writes RESULT0 and RESULT1. -/
structure Touches where
  checks  : List BfIx := []
  edits   : Option BfIx := none
  bitAt   : Option BfIx := none
  frame   : Option FsIx := none
  result0 : Bool := false
  result1 : Bool := false

end Sys2Proof.Machine

namespace Sys2Proof

/-- What each command touches. -/
def Instr.touches : Instr → Machine.Touches
  | .nop => {}
  | .setNbt => {}
  | .setDbt => {}
  | .setFlags fs => { frame := some fs }
  | .setDlc fs => { frame := some fs }
  | .setDlen fs => { frame := some fs }
  | .setId fs => { frame := some fs }
  | .randomize fs => { frame := some fs }
  | .frameEq => { result0 := true }
  | .dlcToLen _ => { result0 := true }
  | .lenToDlc _ => { result0 := true }
  | .build bf _ => { edits := some bf }
  | .update bf _ => { checks := [bf], edits := some bf }
  | .readLen bf => { checks := [bf], result0 := true }
  | .readBit bf => { checks := [bf], bitAt := some bf, result0 := true, result1 := true }
  | .readTq bf => { checks := [bf], bitAt := some bf, result0 := true, result1 := true }
  | .readCycle bf => { checks := [bf], bitAt := some bf, result0 := true }
  | .bitCycles bf => { checks := [bf], bitAt := some bf, result0 := true }
  | .getBitOf bf _ => { checks := [bf], result0 := true }
  | .getBitOfNs bf _ => { checks := [bf], result0 := true }
  | .getRandomBitOf bf _ _ => { checks := [bf], result0 := true }
  | .getStuffBit bf _ _ => { checks := [bf], result0 := true }
  | .getBitIndex bf => { checks := [bf], bitAt := some bf, result0 := true }
  | .getNumStuff bf _ _ _ => { checks := [bf], result0 := true }
  | .insertBit bf _ _ => { checks := [bf], edits := some bf }
  | .insertBitCopy bf bf2 => { checks := [bf, bf2], edits := some bf }
  | .removeBit bf false none => { checks := [bf], edits := some bf, bitAt := some bf }
  | .removeBit bf false (some _) => { checks := [bf], edits := some bf }
  | .removeBit bf true _ => { checks := [bf], edits := some bf }
  | .appendBit bf _ _ => { checks := [bf], edits := some bf }
  | .appendBf bf bf2 => { checks := [bf, bf2], edits := some bf }
  | .removeBitsFrom bf => { checks := [bf], edits := some bf }
  | .turnRx bf => { checks := [bf], edits := some bf }
  | .insActErr bf => { checks := [bf], edits := some bf }
  | .insPasErr bf => { checks := [bf], edits := some bf }
  | .insOvr bf => { checks := [bf], edits := some bf }
  | .looseArb bf => { checks := [bf], edits := some bf, bitAt := some bf }
  | .flipBit bf => { checks := [bf], edits := some bf, bitAt := some bf }
  | .flipComp bf => { checks := [bf], edits := some bf, bitAt := some bf }
  | .appendSuspend bf => { checks := [bf], edits := some bf }
  | .lengthen bf _ => { checks := [bf], edits := some bf, bitAt := some bf }
  | .shorten bf _ => { checks := [bf], edits := some bf, bitAt := some bf }
  | .forceTq bf _ _ _ => { checks := [bf], edits := some bf, bitAt := some bf }
  | .forceCycle bf _ _ _ => { checks := [bf], edits := some bf, bitAt := some bf }
  | .firstTq bf _ => { checks := [bf], bitAt := some bf, result0 := true }
  | .lastTq bf _ => { checks := [bf], bitAt := some bf, result0 := true }
  | .prevPhase bf _ => { checks := [bf], bitAt := some bf, result0 := true }
  | .resync bf => { checks := [bf], edits := some bf, bitAt := some bf, result0 := true }

end Sys2Proof

namespace Sys2Proof.Machine

/-- Quantum `k` is the first of phase `p` in a list of quanta (41_bit_timing R173). -/
def isFirstOf (p : Phase) (tqs : List Tq) (k : Nat) : Prop :=
  (∃ q, tqs[k]? = some q ∧ q.phase = p) ∧ ∀ j < k, ∀ q, tqs[j]? = some q → q.phase ≠ p

/-- Quantum `k` is the last of phase `p` in a list of quanta (41_bit_timing R173). -/
def isLastOf (p : Phase) (tqs : List Tq) (k : Nat) : Prop :=
  (∃ q, tqs[k]? = some q ∧ q.phase = p) ∧ ∀ j > k, ∀ q, tqs[j]? = some q → q.phase ≠ p

/-- The operands of FORCE_TQ and FORCE_CYCLE name quantum `k` of a bit: by absolute index, or counted from the first quantum
of a phase (41_bit_timing R182). -/
def selects (b : BitRec) (flag : Bool) (phase : Phase) (n k : Nat) : Prop :=
  if flag then n < b.count phase ∧ ∃ k0, isFirstOf phase b.tqs k0 ∧ k = k0 + n
  else phase = .sync ∧ n < b.tqs.length ∧ k = n

/-- Index `i` names the `n`-th bit, counted from 0, that satisfies `p` (43_queries R250). -/
def isNth (p : BitRec → Bool) (bits : List BitRec) (n i : Nat) : Prop :=
  (∃ b, bits[i]? = some b ∧ p b = true) ∧ (bits.take i).countP p = n

/-- What BUILD asks of the timing registers and the frame slot (42_encoder R233). -/
def State.buildable (s : State) (fs : FsIx) : Prop :=
  s.nbt.valid = true ∧ ((s.frame fs).flags.fdf = true → (s.frame fs).flags.brs = true → s.dbt.valid = true) ∧
    ((s.frame fs).flags.ide = false → (s.frame fs).id.toNat < 2 ^ 11)

/-- The regular-stuffing region of a slot: SOF through the CRC of a Classical frame, SOF through the data of an FD frame
(42_encoder R210, R220, R230). -/
def BitFrame.stuffRegion (f : BitFrame) : List BitRec :=
  f.bits.takeWhile fun b => b.tag.inFrame && !(f.snap.flags.fdf && inCrcField b.tag)

/-- A bit without its value where `p` holds of its tag, to say that only such values may differ. -/
def BitRec.blank (p : Tag → Bool) (b : BitRec) : BitRec :=
  if p b.tag then { b with value := .dominant } else b

/-- The opcode in the word of a command (30_encoding R90). -/
def opcodeOf (i : Instr) : BitVec 6 :=
  (encode i).extractLsb' 26 6

/-- A word is a row of opcode_table.json: every bit its mask fixes has the row's value. -/
def inTable (w : Word) : Prop :=
  ∃ r ∈ tableRows, w &&& r.2 = r.1

/-- The operand rules a table row does not show (30_encoding R91, R95, R97): a field only with `FSEL`, no reserved tag, no
reserved kind, and, where `VAL` is a filter, a value only with `VSEL`. -/
def legalOperands (w : Word) : Prop :=
  (w.getLsbD 15 = false → w.extractLsb' 10 5 = 0) ∧ (w.getLsbD 15 = true → (w.extractLsb' 10 5).toNat < 28) ∧
    w.extractLsb' 16 2 ≠ 3 ∧
    ((w.extractLsb' 26 6).toNat ∈ [0x19, 0x1A, 0x1C] → w.getLsbD 19 = false → w.getLsbD 18 = false)

/-- The offsets of the register map of a block with parameters `c` (20_memory R63). -/
def listedOffsets (c : Config.Params) : List Nat :=
  [0x000, 0x004, 0x008, 0x00C, 0x010, 0x014, 0x018, 0x01C, 0x020, 0x024, 0x030, 0x034, 0x038, 0x03C]
  ++ ((List.range c.bfSlots).map fun s => 0x040 + 4 * s)
  ++ (List.range c.frameSlots).flatMap fun f =>
    [0x00, 0x04, 0x08, 0x0C, 0x10].map (fun o => 0x100 + 0x80 * f + o)
      ++ (List.range 16).map fun w => 0x100 + 0x80 * f + 0x40 + 4 * w

/-- Slot `bf` is built and no error is recorded: a command on the slot runs, and gets past decode step 5. -/
def State.ready (s : State) (bf : BfIx) : Prop :=
  s.status.err = false ∧ (s.slot bf).valid = true

/-- The state after reset of a block with parameters `c`, as 10_state R42 lists it, with `DATA_BYTES` bytes of draws numbered
from `k` on in each frame slot, no two of them the same draw. -/
structure State.AsReset (s : State) (c : Config.Params) (k : Nat) : Prop where
  params  : s.params = c
  status  : readAt s 0x004 = 0
  args    : s.arg0 = 0 ∧ s.arg1 = 0 ∧ s.arg2 = 0 ∧ s.arg3 = 0
  results : s.result0 = 0 ∧ s.result1 = 0
  caps    : readAt s 0x00C = BitVec.ofNat 16 c.maxBits ++ BitVec.ofNat 8 c.frameSlots ++ BitVec.ofNat 8 c.bfSlots
  nbt     : s.nbt = { prop := 0, ph1 := 0, ph2 := 0, sjw := 0, brp := 0, valid := false }
  dbt     : s.dbt = { prop := 0, ph1 := 0, ph2 := 0, sjw := 0, brp := 0, valid := false }
  frames  : ∀ fs : FsIx, (s.frame fs).flags = ⟨false, false, false, false, false⟩ ∧ (s.frame fs).dlc = 0 ∧
    (s.frame fs).dlen = 0 ∧ (s.frame fs).id = 0 ∧ (s.frame fs).rand = 0
  data    : ∃ ix : FsIx → Nat → Nat,
    (∀ f f', ∀ j < 64 + c.spareBytes, ∀ j' < 64 + c.spareBytes, ix f j = ix f' j' → f = f' ∧ j = j') ∧
    ∀ f, (∀ j, k ≤ ix f j) ∧ (∀ j : Fin 64, (s.frame f).data[j] = Config.draw 8 (ix f j.val)) ∧
      (s.frame f).spare = (List.range c.spareBytes).map fun j => Config.draw 8 (ix f (64 + j))
  slots   : ∀ bf : BfIx, s.slot bf = { valid := false, bits := [], snap :=
    { flags := ⟨false, false, false, false, false⟩, dlc := 0, dlen := 0, id := 0,
      nbt := { prop := 0, ph1 := 0, ph2 := 0, sjw := 0, brp := 0, valid := false },
      dbt := { prop := 0, ph1 := 0, ph2 := 0, sjw := 0, brp := 0, valid := false } } }

/-- Whether a phase of a bit has data timing in a frame with a bit-rate shift (41_bit_timing R170). -/
def inDataPhase (t : Tag) (p : Phase) : Prop :=
  t ∈ [Tag.esi, .dlc, .data, .stuffCount, .stuffParity, .crc] ∨ (t = .brs ∧ p = .ph2) ∨ (t = .crcDelimiter ∧ p ≠ .ph2)

/-- `tm` is the timing of a phase of a bit in a slot with snapshot `sn`: DBT in the data phase of an FD frame with a
bit-rate shift, else NBT (41_bit_timing R170). -/
def isTimingOf (sn : Snap) (t : Tag) (p : Phase) (tm : BitTiming) : Prop :=
  (sn.flags.fdf = true ∧ sn.flags.brs = true ∧ inDataPhase t p → tm = sn.dbt) ∧
    (¬(sn.flags.fdf = true ∧ sn.flags.brs = true ∧ inDataPhase t p) → tm = sn.nbt)

/-- A field of `w` bits with value `x` on the wire, most significant bit first (42_encoder R211). -/
def fieldBits (t : Tag) (w x : Nat) : List (Tag × Level) :=
  (List.range w).reverse.map fun i => (t, if x.testBit i then .recessive else .dominant)

/-- The bits of a frame before the DLC, for the four formats (42_encoder R212 to R216). -/
def headerBits (fr : Frame) : List (Tag × Level) :=
  match fr.flags.fdf, fr.flags.ide with
  | false, false =>
    fieldBits .sof 1 0 ++ fieldBits .baseIdentifier 11 fr.id.toNat ++ fieldBits .rtr 1 fr.flags.rtr.toNat
      ++ fieldBits .ide 1 0 ++ fieldBits .r0 1 0
  | false, true =>
    fieldBits .sof 1 0 ++ fieldBits .baseIdentifier 11 (fr.id.toNat / 2 ^ 18) ++ fieldBits .srr 1 1
      ++ fieldBits .ide 1 1 ++ fieldBits .identifierExtension 18 fr.id.toNat ++ fieldBits .rtr 1 fr.flags.rtr.toNat
      ++ fieldBits .r1 1 0 ++ fieldBits .r0 1 0
  | true, false =>
    fieldBits .sof 1 0 ++ fieldBits .baseIdentifier 11 fr.id.toNat ++ fieldBits .r1 1 0 ++ fieldBits .ide 1 0
      ++ fieldBits .edl 1 1 ++ fieldBits .r0 1 0 ++ fieldBits .brs 1 fr.flags.brs.toNat
      ++ fieldBits .esi 1 fr.flags.esi.toNat
  | true, true =>
    fieldBits .sof 1 0 ++ fieldBits .baseIdentifier 11 (fr.id.toNat / 2 ^ 18) ++ fieldBits .srr 1 1
      ++ fieldBits .ide 1 1 ++ fieldBits .identifierExtension 18 fr.id.toNat ++ fieldBits .r1 1 0
      ++ fieldBits .edl 1 1 ++ fieldBits .r0 1 0 ++ fieldBits .brs 1 fr.flags.brs.toNat
      ++ fieldBits .esi 1 fr.flags.esi.toNat

/-- The DLC and the data of a frame on the wire; a Classical remote frame has no data (42_encoder R217). -/
def payloadBits (fr : Frame) : List (Tag × Level) :=
  fieldBits .dlc 4 fr.dlc.toNat ++
    if fr.flags.fdf = false ∧ fr.flags.rtr = true then []
    else (fr.data.toList.take fr.dlen.toNat).flatMap fun b => fieldBits .data 8 b.toNat

/-- The fields after the CRC (42_encoder R218). -/
def trailerBits : List (Tag × Level) :=
  fieldBits .crcDelimiter 1 1 ++ fieldBits .ack 1 0 ++ fieldBits .ackDelimiter 1 1 ++ fieldBits .eof 7 0x7F
    ++ fieldBits .intermission 3 7

/-- The number of CRC bits of a frame (42_encoder R227). -/
def crcLength (fr : Frame) : Nat :=
  if fr.flags.fdf = false then 15 else if fr.dlen.toNat ≤ 16 then 17 else 21

/-- A bit is a fresh one of the slot, made for its tag and value, but for its stuff classification (41_bit_timing R171). -/
def BitRec.fresh (sn : Snap) (b : BitRec) : Prop :=
  b = { newBit sn b.tag b.value with stuff := b.stuff, fsp := b.fsp }

/-- Bits `i` to `i+n-1` of a list exist and have the value `v`. -/
def runAt (bits : List BitRec) (i n : Nat) (v : Level) : Prop :=
  ∀ j < n, ∃ b, bits[i + j]? = some b ∧ b.value = v

/-- The bits of a slot before its first bit whose tag is no frame tag (42_encoder R230). -/
def BitFrame.prefixBits (f : BitFrame) : List BitRec :=
  f.bits.takeWhile fun b => b.tag.inFrame

/-- The bits of a slot from its first bit whose tag is no frame tag on (42_encoder R230). -/
def BitFrame.restBits (f : BitFrame) : List BitRec :=
  f.bits.dropWhile fun b => b.tag.inFrame

/-- The prefix of a slot holds more CRC-field bits than its format has (42_encoder R230, R234). -/
def BitFrame.crcFieldTooLong (f : BitFrame) : Prop :=
  let n := fun t => f.prefixBits.countP fun b => b.stuff == .none && b.tag == t
  if f.snap.flags.fdf then n .stuffCount > 3 ∨ n .stuffParity > 1 ∨ n .crc > (if f.snap.dlen.toNat ≤ 16 then 17 else 21)
  else n .crc > 15

/-- The values that enter the CRC of a stuffed slot (42_encoder R228, R229): of its prefix no CRC bit, and of the stuff bits
none in a Classical frame and the regular ones in an FD frame. -/
def BitFrame.crcInput (f : BitFrame) : List Level :=
  (f.prefixBits.filter fun b => b.tag != .crc &&
    (b.stuff == .none || (f.snap.flags.fdf && b.stuff == .regular))).map BitRec.value

/-- The values of the CRC bits of the prefix of a slot, in wire order. -/
def BitFrame.crcValues (f : BitFrame) : List Level :=
  (f.prefixBits.filter fun b => b.tag == .crc && b.stuff == .none).map BitRec.value

/-- The CRC bits of a slot are the first bits of the CRC register of width `w` run over its CRC input, most significant bit
first; and where all `w` are there, running the register on over them leaves 0 (42_encoder R226 to R230). -/
def BitFrame.crcFilled (f : BitFrame) {w : Nat} (poly init : BitVec w) : Prop :=
  f.crcValues.length ≤ w ∧
    (∀ (j : Nat) (v : Level), f.crcValues[j]? = some v → v.bit = (crc poly init f.crcInput).getLsbD (w - 1 - j)) ∧
    (f.crcValues.length = w → crc poly init (f.crcInput ++ f.crcValues) = 0)

end Sys2Proof.Machine
end

