-- ==== Sys2Proof/Certificates/Slice0/Obligations.lean ====
section
/-! DEFINITION. The statements about CANBF. A command's statement is the whole equation of its next state, checks first, in
the order of its rule, within the parameters the block was given (00_scope R8); `State.failed s c` is the state of a command
that failed with `ECODE` = `c` (60_exceptions R340, R341). A bit-frame command's statement assumes `State.ready`; the other
cases are `DroppedWhileErr` and `UnbuiltSlotRaisesSlot`. -/

open Sys2Proof Sys2Proof.Machine

/-! ### Encoding -/

/-- Every command, whatever its operands, is decoded from its own word (30_encoding R90, R93). -/
def Obligations.DecodeOfEncode : Prop :=
  ∀ i : Instr, decode (encode i) = .ok i

/-- A word that decodes to a command is that command's word: no two words have one meaning (30_encoding R90, R91). -/
def Obligations.EncodeOfDecode : Prop :=
  ∀ (w : Word) (i : Instr), decode w = .ok i → encode i = w

/-- Words written out from the spec's encodings (30_encoding R105, 95_test_vectors), and words it refuses. -/
def Obligations.SpecWordsDecode : Prop :=
  decode 0x5D00BC00 = .ok (.getBitOf 1 .crc) ∧ decode 0x04000000 = .ok .setNbt ∧
  decode 0x41200000 = .ok (.build 1 1) ∧ decode 0x88108000 = .ok (.removeBit 0 true (some .sof)) ∧
  decode 0xC8140300 = .ok (.forceTq 0 true .ph2 .recessive) ∧ decode 0x70090000 = .ok (.getNumStuff 0 .regular none (some .dominant)) ∧
  decode 0xAD000000 = .ok (.insOvr 1) ∧ decode 0x90800000 = .ok (.appendBf 0 2) ∧
  decode 0x24100000 = .ok (.dlcToLen true) ∧ decode 0xDC000000 = .ok (.resync 0) ∧
  decode 0x2C000000 = .error .reservedOpcode ∧ decode 0x00000001 = .error .unusedNonZero ∧
  decode 0x5C000000 = .error .fieldMissing ∧ decode 0x68030000 = .error .reservedKind ∧
  decode 0x68040000 = .error .valWithoutVsel ∧ decode 0x5F00F800 = .error .reservedTag

/-- A word decodes to a command exactly where it is a row of the opcode table with legal operands (30_encoding R91, R93). -/
def Obligations.DecoderAcceptsTableWords : Prop :=
  ∀ w : Word, (∃ i, decode w = .ok i) ↔ inTable w ∧ legalOperands w

/-- A word whose opcode is in the map but whose operands are not legal raises `E_ARG` and has no other effect
(30_encoding R91, R95, R97). -/
def Obligations.IllegalOperandsRaiseArg : Prop :=
  ∀ (w : Word) (s : State), s.status.err = false → (w.extractLsb' 26 6).toNat ∉ reservedOpcodes →
    ¬(inTable w ∧ legalOperands w) → runWord w s = .next (s.failed 0x02)

/-- Every opcode outside the map is reserved and raises `E_OPC`, whatever the other bits, with no other effect; and NOP, the
word 0, is the only command with no effect (30_encoding R94, 40_config_frame R145). -/
def Obligations.ReservedOpcodesAndNop : Prop :=
  (∀ o : BitVec 6, o.toNat ∈ reservedOpcodes ↔ ∀ i : Instr, opcodeOf i ≠ o) ∧
  (∀ (w : Word) (s : State), s.status.err = false → (w.extractLsb' 26 6).toNat ∈ reservedOpcodes →
    runWord w s = .next (s.failed 0x01)) ∧
  (∀ i : Instr, (∀ s : State, s.status.err = false → exec i s = .next s) ↔ i = .nop) ∧
  encode .nop = 0 ∧
  (∀ (w : Word) (s : State), s.status.err = false → w.extractLsb' 26 6 = 0 → w ≠ 0 → runWord w s = .next (s.failed 0x02))

/-! ### Running a command -/

/-- A step with a command word as the host's next write runs the word: `exec` of the command it decodes to, or the failure of
a word the decoder refuses (10_state R24, R28). A command that names an absent slot, which none does in a block that covers
the command word, is refused by name before its own checks. That a step takes the write off a list of pending events, that
`withFetchWord` puts one there, and the refusal are the model's choices (log entries 1 and 8). -/
def Obligations.StepRunsWrittenCommand : Prop :=
  ∀ (s : State) (w : Word) (rest : List HostEvent), s.pending = cmdWrite w :: rest →
    (∀ i, decode w = .ok i → slotsExist s.params w i = true → step s = exec i { s with pending := rest }) ∧
    (∀ i, s.params.Covers → slotsExist s.params w i = true) ∧
    (∀ i, decode w = .ok i → s.status.err = false → slotsExist s.params w i = false → step s = .refused .absentSlot) ∧
    (∀ e, decode w = .error e → step s = command { s with pending := rest } (.error (decodeErr e))) ∧
    (s.withFetchWord 32 w.toNat).pending = cmdWrite w :: s.pending

/-- While `ERR` is 1 a command, or any word written to CMD, sets `DROP` and changes nothing else, and every other register
access works as it does without an error (60_exceptions R342). -/
def Obligations.DroppedWhileErr : Prop :=
  ∀ s : State, s.status.err = true →
    (∀ i, exec i s = .next { s with status := { s.status with drop := true } }) ∧
    (∀ w, runWord w s = .next { s with status := { s.status with drop := true } }) ∧
    (∀ a, serve (.read a 4) s = if a.toNat % 4 = 0 then .next { s with readData := readAt s a } else .fault (.notAdmitted a 4)) ∧
    (∀ v, writeAt 0x010 v s = .next { s with arg0 := v } ∧ writeAt 0x014 v s = .next { s with arg1 := v } ∧
      writeAt 0x018 v s = .next { s with arg2 := v } ∧ writeAt 0x01C v s = .next { s with arg3 := v } ∧
      writeAt 0x008 v s = .next { s with status := s.status.cleared v }) ∧
    (∀ f : FsIx, f.val < s.params.frameSlots →
      (∀ v, writeAt (BitVec.ofNat 12 (0x110 + 0x80 * f.val)) v s =
        .next (s.setFrame f { s.frame f with rand := v.extractLsb' 0 3 })) ∧
      ∀ (w : Fin 16) (v : Word), writeAt (BitVec.ofNat 12 (0x140 + 0x80 * f.val + 4 * w.val)) v s =
        .next (s.setFrame f ((s.frame f).setDataWord w v)))

/-- A word that leaves an error recorded left nothing else: the state is the one before, with `ERR` 1 and one of the thirteen
codes in `ECODE` (60_exceptions R340, R341). -/
def Obligations.FailingCommandIsPrecise : Prop :=
  ∀ (w : Word) (s t : State), s.status.err = false → runWord w s = .next t → t.status.err = true →
    ∃ c : BitVec 8, 1 ≤ c.toNat ∧ c.toNat ≤ 0x0D ∧ t = s.failed c

/-- A command other than BUILD that uses a bit-frame slot not built raises `E_SLOT`, before any check of its own
(30_encoding R104 step 5). -/
def Obligations.UnbuiltSlotRaisesSlot : Prop :=
  ∀ (i : Instr) (s : State) (bf : BfIx), s.status.err = false → bf ∈ i.touches.checks → (s.slot bf).valid = false →
    exec i s = .next (s.failed 0x09)

/-- A command that edits or reads the bit at index ARG0 raises `E_RANGE` where its built slot has no such bit
(41_bit_timing, 43_queries, 44_structural, 45_protocol_faults). -/
def Obligations.BitBeyondEndRaisesRange : Prop :=
  ∀ (i : Instr) (s : State) (bf : BfIx), i.touches.bitAt = some bf → s.ready bf →
    (s.slot bf).bits.length ≤ s.arg0.toNat → exec i s = .next (s.failed 0x0A)

/-- What each command leaves unchanged (30_encoding R93 and the command rules): the parameters and the argument registers
always; the timing registers but for SET_NBT and SET_DBT; the frame slots and bit-frame slots but for the one it names as
written; `VALID` and `snap` of every slot but for BUILD; the results but where the opcode map names them; warnings but for
SET_FLAGS; `DROP` while `ERR` is 0; within the written frame slot the fields the command does not own. -/
def Obligations.FrameOfEveryCommand : Prop :=
  ∀ (i : Instr) (s t : State), exec i s = .next t →
    t.params = s.params ∧ t.arg0 = s.arg0 ∧ t.arg1 = s.arg1 ∧ t.arg2 = s.arg2 ∧ t.arg3 = s.arg3 ∧
    t.pending = s.pending ∧ t.readData = s.readData ∧
    (i ≠ .setNbt → t.nbt = s.nbt) ∧ (i ≠ .setDbt → t.dbt = s.dbt) ∧
    (∀ fs, i.touches.frame ≠ some fs → t.frame fs = s.frame fs) ∧
    (∀ bf, i.touches.edits ≠ some bf → t.slot bf = s.slot bf) ∧
    ((∀ bf fs, i ≠ .build bf fs) → ∀ bf, (t.slot bf).valid = (s.slot bf).valid ∧ (t.slot bf).snap = (s.slot bf).snap) ∧
    (i.touches.result0 = false → t.result0 = s.result0) ∧ (i.touches.result1 = false → t.result1 = s.result1) ∧
    ((∀ fs, i ≠ .setFlags fs) → t.status.wRtrFd = s.status.wRtrFd ∧ t.status.wBrsCl = s.status.wBrsCl ∧
      t.status.wEsiCl = s.status.wEsiCl ∧ ∀ fs, (t.frame fs).flags = (s.frame fs).flags) ∧
    (s.status.err = false → t.status.drop = s.status.drop) ∧
    ((∀ fs, i ≠ .setId fs ∧ i ≠ .randomize fs) → ∀ fs, (t.frame fs).id = (s.frame fs).id) ∧
    ((∀ fs, i ≠ .randomize fs) → ∀ fs, (t.frame fs).data = (s.frame fs).data) ∧
    (∀ fs, (t.frame fs).rand = (s.frame fs).rand ∧ (t.frame fs).spare = (s.frame fs).spare)

/-! ### The host port -/

/-- With no event pending a step changes nothing; a read gives back the register's value and has no other effect; a reset
event leaves the host's coming events and the word it last read (20_memory R66, 70_reset R370, R371). That an idle block
steps to itself, where the value read stands, and what a reset keeps that is not the block's are the model's choices (log
entries 2, 7 and 9). -/
def Obligations.IdleReadAndResetSteps : Prop :=
  (∀ s : State, s.pending = [] → step s = .next s) ∧
  (∀ (s : State) (a : Addr) (rest : List HostEvent), s.pending = .read a 4 :: rest → a.toNat % 4 = 0 →
    step s = .next { s with pending := rest, readData := readAt s a }) ∧
  (∀ (s : State) (rest : List HostEvent), s.pending = .reset :: rest →
    ∃ t, step s = .next t ∧ t.pending = rest ∧ t.readData = s.readData)

/-- An access of the host is admitted exactly where it is 32 bits wide at a multiple of 4; otherwise the host is stuck, and
the block's state is as it was (20_memory R61). An admitted access has its step: a word written to CMD, in a block that
covers the command word, as one with the values of 00_scope R8 does (log entry 8); any other access, in every block. -/
def Obligations.AccessAdmittedIffAlignedWord : Prop :=
  ∀ (s : State) (a : Addr) (n : Nat) (v : Word) (e : HostEvent) (rest : List HostEvent),
    s.pending = e :: rest → e = .read a n ∨ e = .write a n v →
    (n = 4 ∧ 4 ∣ a.toNat → (∀ x, step s ≠ .fault x) ∧
      (s.params.Covers ∨ a ≠ 0x000 ∨ e = .read a n → ∃ t, step s = .next t)) ∧
    (¬(n = 4 ∧ 4 ∣ a.toNat) → step s = .fault (.notAdmitted a n))

/-- The register map: what each listed register reads as, field by field, the data window included, and what a write to RAND
leaves, in every state (20_memory R63, R64, with the layouts of 10_state R25, R27, R32, R35). CAPS shows the parameters the
block was given, 0x10000204 for the values of 00_scope R8. Writes to the other registers are in `ArgumentRegisters`,
`StatusClrClearsBits`, `DataWindow`, `UnlistedReadOnlyReserved` and `StepRunsWrittenCommand`. -/
def Obligations.ReadsFollowTheMap : Prop :=
  ∀ s : State,
    readAt s 0x000 = 0 ∧
    readAt s 0x004 = 0#16 ++ s.status.ecode ++ 0#3 ++ BitVec.ofBool s.status.wEsiCl ++ BitVec.ofBool s.status.wBrsCl
      ++ BitVec.ofBool s.status.wRtrFd ++ BitVec.ofBool s.status.drop ++ BitVec.ofBool s.status.err ∧
    readAt s 0x008 = 0 ∧
    readAt s 0x00C = BitVec.ofNat 16 s.params.maxBits ++ BitVec.ofNat 8 s.params.frameSlots
      ++ BitVec.ofNat 8 s.params.bfSlots ∧
    (s.params = Config.Params.standard → readAt s 0x00C = 0x10000204) ∧
    readAt s 0x010 = s.arg0 ∧ readAt s 0x014 = s.arg1 ∧ readAt s 0x018 = s.arg2 ∧ readAt s 0x01C = s.arg3 ∧
    readAt s 0x020 = s.result0 ∧ readAt s 0x024 = s.result1 ∧
    readAt s 0x030 = s.nbt.sjw ++ s.nbt.ph2 ++ s.nbt.ph1 ++ s.nbt.prop ∧
    readAt s 0x034 = BitVec.ofBool s.nbt.valid ++ 0#23 ++ s.nbt.brp ∧
    readAt s 0x038 = s.dbt.sjw ++ s.dbt.ph2 ++ s.dbt.ph1 ++ s.dbt.prop ∧
    readAt s 0x03C = BitVec.ofBool s.dbt.valid ++ 0#23 ++ s.dbt.brp ∧
    (∀ bf : BfIx, bf.val < s.params.bfSlots → readAt s (BitVec.ofNat 12 (0x040 + 4 * bf.val)) =
      BitVec.ofBool (s.slot bf).valid ++ 0#3 ++ (s.slot bf).snap.dlc ++ 0#3
        ++ BitVec.ofBool (s.slot bf).snap.flags.esi ++ BitVec.ofBool (s.slot bf).snap.flags.brs
        ++ BitVec.ofBool (s.slot bf).snap.flags.rtr ++ BitVec.ofBool (s.slot bf).snap.flags.ide
        ++ BitVec.ofBool (s.slot bf).snap.flags.fdf ++ BitVec.ofNat 16 (s.slot bf).bits.length) ∧
    (∀ f : FsIx, f.val < s.params.frameSlots →
      readAt s (BitVec.ofNat 12 (0x100 + 0x80 * f.val)) = 0#27 ++ BitVec.ofBool (s.frame f).flags.esi
        ++ BitVec.ofBool (s.frame f).flags.brs ++ BitVec.ofBool (s.frame f).flags.rtr
        ++ BitVec.ofBool (s.frame f).flags.ide ++ BitVec.ofBool (s.frame f).flags.fdf ∧
      readAt s (BitVec.ofNat 12 (0x104 + 0x80 * f.val)) = 0#28 ++ (s.frame f).dlc ∧
      readAt s (BitVec.ofNat 12 (0x108 + 0x80 * f.val)) = 0#25 ++ (s.frame f).dlen ∧
      readAt s (BitVec.ofNat 12 (0x10C + 0x80 * f.val)) = 0#3 ++ (s.frame f).id ∧
      readAt s (BitVec.ofNat 12 (0x110 + 0x80 * f.val)) = 0#29 ++ (s.frame f).rand ∧
      (∀ (w : Fin 16) (k : Fin 4),
        ((readAt s (BitVec.ofNat 12 (0x140 + 0x80 * f.val + 4 * w.val))) >>> (8 * k.val)).setWidth 8 =
          (s.frame f).data[4 * w.val + k.val]'(by show _ < 64; omega)) ∧
      ∀ v : Word, writeAt (BitVec.ofNat 12 (0x110 + 0x80 * f.val)) v s =
        .next (s.setFrame f { s.frame f with rand := v.setWidth 3 }))

/-- An aligned access to an offset the map does not list reads as 0 and ignores writes; a write to a read-only register is
ignored; the write-only registers read as 0; the reserved bits of every register read as 0, and those of RAND and STATUS_CLR
ignore writes (20_memory R62). -/
def Obligations.UnlistedReadOnlyReserved : Prop :=
  ∀ (s : State) (v : Word),
    (∀ a : Addr, a.toNat ∉ listedOffsets s.params → readAt s a = 0 ∧ writeAt a v s = .next s) ∧
    (∀ n ∈ [0x004, 0x00C, 0x020, 0x024, 0x030, 0x034, 0x038, 0x03C, 0x040, 0x044, 0x048, 0x04C, 0x100, 0x104, 0x108, 0x10C,
      0x180, 0x184, 0x188, 0x18C], writeAt (BitVec.ofNat 12 n) v s = .next s) ∧
    readAt s 0x000 = 0 ∧ readAt s 0x008 = 0 ∧
    (∀ m ∈ [(0x004, 0xFFFF00E0#32), (0x034, 0x7FFFFF00#32), (0x03C, 0x7FFFFF00#32), (0x040, 0x70E00000#32),
      (0x044, 0x70E00000#32), (0x048, 0x70E00000#32), (0x04C, 0x70E00000#32), (0x100, 0xFFFFFFE0#32), (0x104, 0xFFFFFFF0#32),
      (0x108, 0xFFFFFF80#32), (0x10C, 0xE0000000#32), (0x110, 0xFFFFFFF8#32), (0x180, 0xFFFFFFE0#32), (0x184, 0xFFFFFFF0#32),
      (0x188, 0xFFFFFF80#32), (0x18C, 0xE0000000#32), (0x190, 0xFFFFFFF8#32)],
      readAt s (BitVec.ofNat 12 m.1) &&& m.2 = 0) ∧
    writeAt 0x008 v s = writeAt 0x008 (v &&& 0x1F) s ∧
    (∀ f : FsIx, writeAt (BitVec.ofNat 12 (0x110 + 0x80 * f.val)) v s =
      writeAt (BitVec.ofNat 12 (0x110 + 0x80 * f.val)) (v &&& 7) s)

/-- A write of `v` to STATUS_CLR clears each of the flags 0..4 whose bit is 1 in `v`, and `ECODE` with flag 0; nothing else
changes, and the register reads as 0 (10_state R26). -/
def Obligations.StatusClrClearsBits : Prop :=
  ∀ (s : State) (v : Word), readAt s 0x008 = 0 ∧
    ∃ st : Status, writeAt 0x008 v s = .next { s with status := st } ∧
      st.err = (if v.getLsbD 0 then false else s.status.err) ∧ st.drop = (if v.getLsbD 1 then false else s.status.drop) ∧
      st.wRtrFd = (if v.getLsbD 2 then false else s.status.wRtrFd) ∧
      st.wBrsCl = (if v.getLsbD 3 then false else s.status.wBrsCl) ∧
      st.wEsiCl = (if v.getLsbD 4 then false else s.status.wEsiCl) ∧
      st.ecode = (if v.getLsbD 0 then 0 else s.status.ecode)

/-- The data window: a word reads as its four bytes, the lowest-numbered least significant, and a write replaces exactly
those four (20_memory R64). -/
def Obligations.DataWindow : Prop :=
  ∀ (s : State) (f : FsIx) (w : Fin 16) (v : Word), f.val < s.params.frameSlots →
    readAt s (BitVec.ofNat 12 (0x140 + 0x80 * f.val + 4 * w.val)) =
      (s.frame f).data[4 * w.val + 3]'(by show _ < 64; omega) ++ (s.frame f).data[4 * w.val + 2]'(by show _ < 64; omega)
        ++ (s.frame f).data[4 * w.val + 1]'(by show _ < 64; omega) ++ (s.frame f).data[4 * w.val]'(by show _ < 64; omega) ∧
    ∃ d : Vector Byte 64,
      writeAt (BitVec.ofNat 12 (0x140 + 0x80 * f.val + 4 * w.val)) v s =
        .next (s.setFrame f { s.frame f with data := d }) ∧
      ∀ j : Fin 64, d[j] =
        if j.val / 4 = w.val then (v >>> (8 * (j.val % 4))).setWidth 8 else (s.frame f).data[j]

/-- The argument registers: the host reads and writes all 32 bits of each, no command writes them, and they are 0 after
reset (10_state R22). -/
def Obligations.ArgumentRegisters : Prop :=
  (∀ (s : State) (v : Word),
    writeAt 0x010 v s = .next { s with arg0 := v } ∧ writeAt 0x014 v s = .next { s with arg1 := v } ∧
    writeAt 0x018 v s = .next { s with arg2 := v } ∧ writeAt 0x01C v s = .next { s with arg3 := v } ∧
    readAt s 0x010 = s.arg0 ∧ readAt s 0x014 = s.arg1 ∧ readAt s 0x018 = s.arg2 ∧ readAt s 0x01C = s.arg3) ∧
  (∀ (w : Word) (s t : State), runWord w s = .next t →
    t.arg0 = s.arg0 ∧ t.arg1 = s.arg1 ∧ t.arg2 = s.arg2 ∧ t.arg3 = s.arg3) ∧
  State.reset.arg0 = 0 ∧ State.reset.arg1 = 0 ∧ State.reset.arg2 = 0 ∧ State.reset.arg3 = 0

/-- The result registers: a host write is ignored; a command that fails or is dropped, and one the opcode map gives no
result, leaves them unchanged; they are 0 after reset (10_state R23). -/
def Obligations.ResultRegisters : Prop :=
  (∀ (s : State) (v : Word), writeAt 0x020 v s = .next s ∧ writeAt 0x024 v s = .next s ∧
    readAt s 0x020 = s.result0 ∧ readAt s 0x024 = s.result1) ∧
  (∀ (w : Word) (s t : State), runWord w s = .next t → t.status.err = true →
    t.result0 = s.result0 ∧ t.result1 = s.result1) ∧
  (∀ (i : Instr) (s t : State), exec i s = .next t →
    (i.touches.result0 = false → t.result0 = s.result0) ∧ (i.touches.result1 = false → t.result1 = s.result1)) ∧
  State.reset.result0 = 0 ∧ State.reset.result1 = 0

/-! ### Reset and invariants -/

/-- The state right after reset, with the parameter values of 00_scope R8 or any others, and the state a reset event leaves
in any state, hold the reset values; the DATA bytes are draws, and after a reset event draws not taken before (10_state R42,
70_reset R370). -/
def Obligations.ResetValues : Prop :=
  State.reset.AsReset Config.Params.standard 0 ∧ readAt State.reset 0x00C = 0x10000204 ∧
  (∀ c : Config.Params, (State.resetWith c).AsReset c 0) ∧
  ∀ (s : State) (rest : List HostEvent), s.pending = .reset :: rest →
    ∃ t, step s = .next t ∧ t.AsReset s.params s.draws

/-- The state right after reset meets the invariant, with the parameter values of 00_scope R8 and with any legal others. -/
def Obligations.ResetMeetsInvariant : Prop :=
  State.reset.Inv ∧ ∀ c : Config.Params, c.Legal → (State.resetWith c).Inv

/-- Every step keeps the invariant: `ERR` exactly where `ECODE` is a code; legal timing registers, frame flags and DLENs;
slots as after reset or built, with a good snapshot and at most `MAX_BITS` bits, each with its phases in order, at most
`MAX_TQ_PER_PHASE` quanta each, quanta of 1 to `MAX_TQ_CYCLES` cycles with one force entry per cycle, and `fsp` only on
fixed stuff bits; and every step, of any state, keeps the parameters (00_scope R8, 10_state R21, R29, R32, R33, R36 to R38,
20_memory R67, 40_config_frame R138, 60_exceptions R340). -/
def Obligations.StepKeepsInvariant : Prop :=
  (∀ s t : State, s.Inv → step s = .next t → t.Inv) ∧ ∀ s t : State, step s = .next t → t.params = s.params

/-- Every command answers a next state in every state; and in a block that covers the command word, as one with the values of
00_scope R8 does, a host that makes only admitted accesses is never stuck: its step answers a next state, in which that still
holds (20_memory R61, 60_exceptions R346). -/
def Obligations.AdmittedHostNeverStuck : Prop :=
  (∀ (i : Instr) (s : State), ∃ t, exec i s = .next t) ∧ Config.Params.standard.Covers ∧
  (∀ s : State, s.params.Covers → s.hostAdmitted → ∃ t, step s = .next t ∧ t.params.Covers ∧ t.hostAdmitted)

/-- After every command every frame slot has the DLEN of its DLC and format; and a command that changes the DLC, the DLEN or
`FDF` of a frame slot is SET_DLC, SET_DLEN, SET_FLAGS or RANDOMIZE (40_config_frame R138). -/
def Obligations.DlenFollowsDlc : Prop :=
  ∀ (w : Word) (s t : State), runWord w s = .next t →
    ((∀ fs, (s.frame fs).dlen = dlcToLen (s.frame fs).dlc (s.frame fs).flags.fdf) →
      ∀ fs, (t.frame fs).dlen = dlcToLen (t.frame fs).dlc (t.frame fs).flags.fdf) ∧
    (∀ fs, (t.frame fs).dlc ≠ (s.frame fs).dlc ∨ (t.frame fs).dlen ≠ (s.frame fs).dlen ∨
        (t.frame fs).flags.fdf ≠ (s.frame fs).flags.fdf →
      decode w = .ok (.setDlc fs) ∨ decode w = .ok (.setDlen fs) ∨ decode w = .ok (.setFlags fs) ∨
        decode w = .ok (.randomize fs))

/-- The warnings: SET_FLAGS sets each where it corrects that flag, completes and does not set `ERR`; no command clears one,
no other command sets one, and no host write but one to STATUS_CLR clears one (60_exceptions R343). -/
def Obligations.WarningsAreSticky : Prop :=
  (∀ (fs : FsIx) (s : State), s.status.err = false → s.arg0.toNat < 32 →
    ∃ t, exec (.setFlags fs) s = .next t ∧ t.status.err = false ∧
      t.status.wRtrFd = (s.status.wRtrFd || (s.arg0.getLsbD 0 && s.arg0.getLsbD 2)) ∧
      t.status.wBrsCl = (s.status.wBrsCl || (!s.arg0.getLsbD 0 && s.arg0.getLsbD 3)) ∧
      t.status.wEsiCl = (s.status.wEsiCl || (!s.arg0.getLsbD 0 && s.arg0.getLsbD 4))) ∧
  (∀ (w : Word) (s t : State), runWord w s = .next t →
    (s.status.wRtrFd = true → t.status.wRtrFd = true) ∧ (s.status.wBrsCl = true → t.status.wBrsCl = true) ∧
    (s.status.wEsiCl = true → t.status.wEsiCl = true) ∧
    ((∀ fs, decode w ≠ .ok (.setFlags fs)) → t.status.wRtrFd = s.status.wRtrFd ∧ t.status.wBrsCl = s.status.wBrsCl ∧
      t.status.wEsiCl = s.status.wEsiCl)) ∧
  (∀ (a : Addr) (v : Word) (s t : State), a ≠ 0x000 → a ≠ 0x008 → writeAt a v s = .next t → t.status = s.status)

/-- A built slot keeps the timing and format it was built with: no command but BUILD changes a snapshot, and every other
command on a bit-frame slot does the same whatever the frame slots and the timing registers hold (10_state R41,
70_reset R385). -/
def Obligations.SnapshotStaysUntilBuild : Prop :=
  ∀ (i : Instr) (s t : State), (∀ bf fs, i ≠ .build bf fs) → exec i s = .next t →
    (∀ bf, (t.slot bf).snap = (s.slot bf).snap) ∧
    (i.touches.edits = none → ∀ bf, t.slot bf = s.slot bf) ∧
    (i.touches.checks ≠ [] → ∀ (frames : Vector Frame Config.frameNames) (nbt dbt : BitTiming),
      exec i { s with frames := frames, nbt := nbt, dbt := dbt } =
        .next { t with frames := frames, nbt := nbt, dbt := dbt })

/-! ### Timing registers, frame slots, conversions -/

/-- SET_NBT and SET_DBT: the SJW check, then the BRP check, both on the operands as given, then the register with `VALID` 1
and the operands in its fields (40_config_frame R130 to R132, 30_encoding R101). With the 8-bit fields of 00_scope R8 every
operand fits. In a block with narrower fields the register still holds each operand that fits; what a field holds that its
operand does not fit, a free value of the field's width that leaves the register legal by 10_state R29, is the model's choice
(log entry 20), and the statement holds for every such value. -/
def Obligations.SetTimingResult : Prop :=
  opcodeOf .setNbt = 0x01 ∧ opcodeOf .setDbt = 0x02 ∧
  ∀ (s : State) (p a b j : BitVec 8), s.status.err = false → s.arg0 = j ++ b ++ a ++ p →
    let r : BitVec 8 := s.arg1.setWidth 8
    let badSjw := j.toNat > p.toNat + a.toNat + 1 ∨ j.toNat > b.toNat
    let badBrp := s.arg1.toNat = 0 ∨ s.arg1.toNat > 255
    let w := s.params.timingWidth
    ∃ (t : BitTiming) (k : Nat),
      exec .setNbt s = .next (if badSjw then s.failed 0x03 else if badBrp then s.failed 0x04
        else { s with nbt := t, draws := k }) ∧
      exec .setDbt s = .next (if badSjw then s.failed 0x03 else if badBrp then s.failed 0x04
        else { s with dbt := t, draws := k }) ∧
      (8 ≤ w ∨ (∀ x ∈ [p, a, b, j, r], x.toNat < 2 ^ w) →
        t = { prop := p, ph1 := a, ph2 := b, sjw := j, brp := r, valid := true } ∧ k = s.draws) ∧
      t.valid = true ∧ (p.toNat < 2 ^ w → t.prop = p) ∧ (a.toNat < 2 ^ w → t.ph1 = a) ∧ (b.toNat < 2 ^ w → t.ph2 = b) ∧
      (j.toNat < 2 ^ w → t.sjw = j) ∧ (r.toNat < 2 ^ w → t.brp = r) ∧
      (¬badSjw → ¬badBrp → 1 ≤ w → t.Wf s.params)

/-- SET_FLAGS: `E_ARG` where a bit above 4 is set; otherwise the flags with RTR forced off in an FD frame, BRS and ESI in a
Classical one, the DLEN of the DLC in the new format, and a warning for each correction (40_config_frame R133, R134). -/
def Obligations.SetFlagsResult : Prop :=
  ∀ (fs : FsIx) (s : State), s.status.err = false → opcodeOf (.setFlags fs) = 0x03 ∧
    (32 ≤ s.arg0.toNat → exec (.setFlags fs) s = .next (s.failed 0x02)) ∧
    (∀ fdf ide rtr brs esi : Bool,
      s.arg0 = 0#27 ++ BitVec.ofBool esi ++ BitVec.ofBool brs ++ BitVec.ofBool rtr ++ BitVec.ofBool ide ++ BitVec.ofBool fdf →
      exec (.setFlags fs) s = .next
        { s.setFrame fs { s.frame fs with
            flags := ⟨fdf, ide, if fdf then false else rtr, if fdf then brs else false, if fdf then esi else false⟩
            dlen := dlcToLen (s.frame fs).dlc fdf } with
          status := { s.status with
            wRtrFd := s.status.wRtrFd || (fdf && rtr)
            wBrsCl := s.status.wBrsCl || (!fdf && brs)
            wEsiCl := s.status.wEsiCl || (!fdf && esi) } })

/-- SET_DLC and SET_DLEN: the DLC and the DLEN are written together (40_config_frame R137, R139). -/
def Obligations.SetDlcSetDlenResult : Prop :=
  ∀ (fs : FsIx) (s : State), s.status.err = false →
    opcodeOf (.setDlc fs) = 0x04 ∧ opcodeOf (.setDlen fs) = 0x05 ∧
    exec (.setDlc fs) s = .next (
      if 16 ≤ s.arg0.toNat then s.failed 0x05
      else s.setFrame fs { s.frame fs with
        dlc := s.arg0.setWidth 4, dlen := dlcToLen (s.arg0.setWidth 4) (s.frame fs).flags.fdf }) ∧
    (∀ d : BitVec 4, ((s.frame fs).flags.fdf = false → d.toNat ≤ 8) →
      s.arg0.toNat = (dlcToLen d (s.frame fs).flags.fdf).toNat →
      exec (.setDlen fs) s = .next (s.setFrame fs { s.frame fs with
        dlc := d, dlen := dlcToLen d (s.frame fs).flags.fdf })) ∧
    ((∀ d : BitVec 4, s.arg0.toNat ≠ (dlcToLen d (s.frame fs).flags.fdf).toNat) →
      exec (.setDlen fs) s = .next (s.failed 0x06))

/-- SET_ID: any identifier below 2^29, and below 2^11 in base format (40_config_frame R140). -/
def Obligations.SetIdResult : Prop :=
  ∀ (fs : FsIx) (s : State), s.status.err = false → opcodeOf (.setId fs) = 0x06 ∧
    exec (.setId fs) s = .next (
      if 2 ^ 29 ≤ s.arg0.toNat ∨ ((s.frame fs).flags.ide = false ∧ 2 ^ 11 ≤ s.arg0.toNat) then s.failed 0x07
      else s.setFrame fs { s.frame fs with id := s.arg0.setWidth 29 })

/-- RANDOMIZE: each marked field takes draws not taken before, the identifier masked to its format's width, all 64 data
bytes drawn; the DLEN follows the DLC; the flags, the marks and every unmarked field stay (40_config_frame R141). The
numbering of the draws is the model's (log entry 18); the statement holds for every value they have. -/
def Obligations.RandomizeResult : Prop :=
  ∀ (fs : FsIx) (s : State), s.status.err = false → opcodeOf (.randomize fs) = 0x07 ∧
    ∃ (dlc : BitVec 4) (id : BitVec 29) (data : Vector Byte 64) (k jd ji : Nat) (jb : Fin 64 → Nat),
      exec (.randomize fs) s = .next
        { s.setFrame fs { s.frame fs with
            dlc := dlc, dlen := dlcToLen dlc (s.frame fs).flags.fdf, id := id, data := data } with draws := k } ∧
      dlc = (if (s.frame fs).rand.getLsbD 0 then Config.draw 4 jd else (s.frame fs).dlc) ∧
      id = (if (s.frame fs).rand.getLsbD 1 then
        Config.draw 29 ji &&& (if (s.frame fs).flags.ide then 0x1FFFFFFF else 0x7FF) else (s.frame fs).id) ∧
      (∀ j : Fin 64, data[j] = if (s.frame fs).rand.getLsbD 2 then Config.draw 8 (jb j) else (s.frame fs).data[j]) ∧
      s.draws ≤ jd ∧ jd < ji ∧ (∀ j, ji < jb j) ∧ (∀ j j', jb j = jb j' → j = j') ∧
      ((s.frame fs).rand ≠ 0 → ji < k ∧ ∀ j, jb j < k) ∧ ((s.frame fs).rand = 0 → k = s.draws)

/-- FRAME_EQ: 1 exactly where the two frame slots agree in identifier, DLC, all five flags, and the data bytes below the
DLEN of slot 0 (40_config_frame R142). -/
def Obligations.FrameEqResult : Prop :=
  opcodeOf .frameEq = 0x08 ∧
  ∀ s : State, s.status.err = false →
    let a := s.frame 0
    let b := s.frame 1
    let same := a.id = b.id ∧ a.dlc = b.dlc ∧ a.flags = b.flags ∧ ∀ k : Fin 64, k.val < a.dlen.toNat → a.data[k] = b.data[k]
    (same → exec .frameEq s = .next { s with result0 := 1 }) ∧ (¬same → exec .frameEq s = .next { s with result0 := 0 })

/-- The DLC table, its inverse on its image, and the round trip (40_config_frame R135, R136, R146). -/
def Obligations.DlcTable : Prop :=
  (List.finRange 16).map (fun d => (dlcToLen (.ofFin d) false).toNat) = [0, 1, 2, 3, 4, 5, 6, 7, 8, 8, 8, 8, 8, 8, 8, 8] ∧
  (List.finRange 16).map (fun d => (dlcToLen (.ofFin d) true).toNat) = [0, 1, 2, 3, 4, 5, 6, 7, 8, 12, 16, 20, 24, 32, 48, 64] ∧
  (∀ (n : Nat) (fdf : Bool) (d : BitVec 4),
    lenToDlc n fdf = some d ↔ (dlcToLen d fdf).toNat = n ∧ (fdf = false → d.toNat ≤ 8)) ∧
  (∀ d : BitVec 4, 9 ≤ d.toNat →
    (lenToDlc (dlcToLen d true).toNat true).map (fun e => dlcToLen e true) = some (dlcToLen d true)) ∧
  (∀ d : BitVec 4, d.toNat ≤ 8 → (dlcToLen d false).toNat = d.toNat) ∧ dlcToLen 9 true = 12

/-- DLC_TO_LEN and LEN_TO_DLC, with `FLAG` as the format (40_config_frame R143, R144). -/
def Obligations.DlcConversionResults : Prop :=
  ∀ (flag : Bool) (s : State), s.status.err = false →
    opcodeOf (.dlcToLen flag) = 0x09 ∧ opcodeOf (.lenToDlc flag) = 0x0A ∧
    exec (.dlcToLen flag) s = .next (
      if 16 ≤ s.arg0.toNat then s.failed 0x05
      else { s with result0 := (dlcToLen (s.arg0.setWidth 4) flag).setWidth 32 }) ∧
    (∀ d : BitVec 4, (flag = false → d.toNat ≤ 8) → s.arg0.toNat = (dlcToLen d flag).toNat →
      exec (.lenToDlc flag) s = .next { s with result0 := d.setWidth 32 }) ∧
    ((∀ d : BitVec 4, s.arg0.toNat ≠ (dlcToLen d flag).toNat) → exec (.lenToDlc flag) s = .next (s.failed 0x06))

/-! ### Bits and time quanta -/

/-- `NewBit`: the phases in time order, in each the number of quanta and the length of its own timing, nothing forced; so
the bit's length in cycles is the sum over its phases; and it is never too big for a block with the room of the values of
00_scope R8 (41_bit_timing R170 to R172, 20_memory R67). -/
def Obligations.NewBitFollowsTiming : Prop :=
  ∀ (sn : Snap) (t : Tag) (v : Level), ∃ tm : Phase → BitTiming,
    (∀ p, isTimingOf sn t p (tm p)) ∧
    (newBit sn t v).tag = t ∧ (newBit sn t v).value = v ∧ (newBit sn t v).stuff = .none ∧ (newBit sn t v).fsp = false ∧
    phasesOrdered (newBit sn t v).tqs ∧
    (newBit sn t v).count .sync = 1 ∧ (newBit sn t v).count .prop = (tm .prop).prop.toNat ∧
    (newBit sn t v).count .ph1 = (tm .ph1).ph1.toNat ∧ (newBit sn t v).count .ph2 = (tm .ph2).ph2.toNat ∧
    (∀ q ∈ (newBit sn t v).tqs, q.len = (tm q.phase).brp.toNat ∧ q.tqf = none ∧
      q.cyc = List.replicate (tm q.phase).brp.toNat none) ∧
    (newBit sn t v).cycles = (tm .sync).brp.toNat + (tm .prop).prop.toNat * (tm .prop).brp.toNat
      + (tm .ph1).ph1.toNat * (tm .ph1).brp.toNat + (tm .ph2).ph2.toNat * (tm .ph2).brp.toNat ∧
    ∀ c : Config.Params, c.Roomy → (newBit sn t v).tooBig c = false

/-- LENGTHEN: `E_CAPACITY` where the phase would exceed `MAX_TQ_PER_PHASE` quanta or a new one `MAX_TQ_CYCLES`; otherwise `n`
fresh quanta of the phase's own timing stand at the end of the phase. SHORTEN: `E_SHORTEN` where the phase holds fewer than
`n` quanta; otherwise its last `n` are gone. Every other quantum is kept, in its place (41_bit_timing R180, R181, `slot` of
R173). That a new quantum of more than `MAX_TQ_CYCLES` raises `E_CAPACITY` too is 20_memory R67 with 30_encoding R104 step 7,
applied here by log entry 17. The phases of a bit stand in time order in every state that meets the invariant
(`StepKeepsInvariant`). -/
def Obligations.LengthenShortenResults : Prop :=
  ∀ (bf : BfIx) (p : Phase) (s : State), s.ready bf →
    let n := s.arg1.toNat
    opcodeOf (.lengthen bf p) = 0x30 ∧ opcodeOf (.shorten bf p) = 0x31 ∧
    ((s.slot bf).bits.length ≤ s.arg0.toNat → exec (.lengthen bf p) s = .next (s.failed 0x0A) ∧
      exec (.shorten bf p) s = .next (s.failed 0x0A)) ∧
    ∀ (b : BitRec) (tm : BitTiming), (s.slot bf).bits[s.arg0.toNat]? = some b →
      isTimingOf (s.slot bf).snap b.tag p tm → phasesOrdered b.tqs →
      (s.params.maxTqPerPhase < b.count p + n ∨ (n ≠ 0 ∧ s.params.maxTqCycles < tm.brp.toNat) →
        exec (.lengthen bf p) s = .next (s.failed 0x0D)) ∧
      (b.count p < n → exec (.shorten bf p) s = .next (s.failed 0x0C)) ∧
      ∃ A M B : List Tq, b.tqs = A ++ M ++ B ∧ (∀ q ∈ A, q.phase.code.toNat < p.code.toNat) ∧ (∀ q ∈ M, q.phase = p) ∧
        (∀ q ∈ B, p.code.toNat < q.phase.code.toNat) ∧
        (b.count p + n ≤ s.params.maxTqPerPhase ∧ (n = 0 ∨ tm.brp.toNat ≤ s.params.maxTqCycles) →
          exec (.lengthen bf p) s = .next (s.setBit bf s.arg0 { b with
          tqs := A ++ (M ++ List.replicate n
            { phase := p, len := tm.brp.toNat, tqf := none, cyc := List.replicate tm.brp.toNat none }) ++ B })) ∧
        (n ≤ b.count p → exec (.shorten bf p) s = .next (s.setBit bf s.arg0 { b with
          tqs := A ++ M.take (M.length - n) ++ B }))

/-- FORCE_TQ and FORCE_CYCLE: the quantum the operands select gets the forced value and loses its cycle forces, or one of
its cycles is forced; the errors of the selection, and `E_RANGE` for a cycle beyond the quantum (41_bit_timing R182 to
R184). -/
def Obligations.ForceResults : Prop :=
  ∀ (bf : BfIx) (flag : Bool) (p : Phase) (v : Level) (s : State), s.ready bf →
    opcodeOf (.forceTq bf flag p v) = 0x32 ∧ opcodeOf (.forceCycle bf flag p v) = 0x33 ∧
    ((s.slot bf).bits.length ≤ s.arg0.toNat → exec (.forceTq bf flag p v) s = .next (s.failed 0x0A) ∧
      exec (.forceCycle bf flag p v) s = .next (s.failed 0x0A)) ∧
    ∀ b : BitRec, (s.slot bf).bits[s.arg0.toNat]? = some b →
    (flag = false ∧ p ≠ .sync → exec (.forceTq bf flag p v) s = .next (s.failed 0x02) ∧
      exec (.forceCycle bf flag p v) s = .next (s.failed 0x02)) ∧
    ((flag = false ∧ p = .sync ∧ b.tqs.length ≤ s.arg1.toNat) ∨ (flag = true ∧ b.count p ≤ s.arg1.toNat) →
      exec (.forceTq bf flag p v) s = .next (s.failed 0x0A) ∧ exec (.forceCycle bf flag p v) s = .next (s.failed 0x0A)) ∧
    (∀ (k : Nat) (q : Tq), selects b flag p s.arg1.toNat k → b.tqs[k]? = some q →
      exec (.forceTq bf flag p v) s = .next (s.setBit bf s.arg0
        { b with tqs := b.tqs.set k { q with tqf := some v, cyc := List.replicate q.len none } }) ∧
      exec (.forceCycle bf flag p v) s = .next (
        if q.len ≤ s.arg2.toNat then s.failed 0x0A
        else s.setBit bf s.arg0 { b with tqs := b.tqs.set k { q with cyc := q.cyc.set s.arg2.toNat (some v) } }))

/-- FIRST_TQ, LAST_TQ and PREV_PHASE: the index of the phase's first or last quantum, the latest earlier phase that has
quanta; `E_FIELD` where there is none (41_bit_timing R185 to R187). -/
def Obligations.NavigationResults : Prop :=
  ∀ (bf : BfIx) (p : Phase) (s : State), s.ready bf →
    opcodeOf (.firstTq bf p) = 0x34 ∧ opcodeOf (.lastTq bf p) = 0x35 ∧ opcodeOf (.prevPhase bf p) = 0x36 ∧
    ((s.slot bf).bits.length ≤ s.arg0.toNat → exec (.firstTq bf p) s = .next (s.failed 0x0A) ∧
      exec (.lastTq bf p) s = .next (s.failed 0x0A) ∧ exec (.prevPhase bf p) s = .next (s.failed 0x0A)) ∧
    ∀ b : BitRec, (s.slot bf).bits[s.arg0.toNat]? = some b →
    (b.count p = 0 → exec (.firstTq bf p) s = .next (s.failed 0x0B) ∧ exec (.lastTq bf p) s = .next (s.failed 0x0B)) ∧
    (∀ k, isFirstOf p b.tqs k → exec (.firstTq bf p) s = .next { s with result0 := BitVec.ofNat 32 k }) ∧
    (∀ k, isLastOf p b.tqs k → exec (.lastTq bf p) s = .next { s with result0 := BitVec.ofNat 32 k }) ∧
    ((∀ q : Phase, q.code.toNat < p.code.toNat → b.count q = 0) → exec (.prevPhase bf p) s = .next (s.failed 0x0B)) ∧
    (∀ q : Phase, q.code.toNat < p.code.toNat → b.count q > 0 →
      (∀ r : Phase, q.code.toNat < r.code.toNat → r.code.toNat < p.code.toNat → b.count r = 0) →
      exec (.prevPhase bf p) s = .next { s with result0 := q.code.setWidth 32 })

/-- RESYNC by the signed error ARG1: late edges do what LENGTHEN of Ph1 does, early ones what SHORTEN of Ph2 does, by the
error's size but at most the SJW of that phase's timing, with their errors; `RESULT0` is that size (41_bit_timing R188). -/
def Obligations.ResyncResult : Prop :=
  ∀ (bf : BfIx) (s : State), s.ready bf → opcodeOf (.resync bf) = 0x37 ∧
    ((s.slot bf).bits.length ≤ s.arg0.toNat → exec (.resync bf) s = .next (s.failed 0x0A)) ∧
    ∀ (b : BitRec) (tm1 tm2 : BitTiming), (s.slot bf).bits[s.arg0.toNat]? = some b →
    isTimingOf (s.slot bf).snap b.tag .ph1 tm1 → isTimingOf (s.slot bf).snap b.tag .ph2 tm2 →
    (s.arg1.toInt = 0 → exec (.resync bf) s = .next { s with result0 := 0 }) ∧
    (∀ (i : Instr) (k : Nat),
      (0 < s.arg1.toInt ∧ i = .lengthen bf .ph1 ∧ k = min s.arg1.toInt.natAbs tm1.sjw.toNat) ∨
        (s.arg1.toInt < 0 ∧ i = .shorten bf .ph2 ∧ k = min s.arg1.toInt.natAbs tm2.sjw.toNat) →
      ∃ t, exec i { s with arg1 := BitVec.ofNat 32 k } = .next t ∧
        exec (.resync bf) s = .next (if t.status.err then s.failed t.status.ecode
          else { t with arg1 := s.arg1, result0 := BitVec.ofNat 32 k }))

/-! ### The encoder -/

/-- BUILD: `E_TIMING` without a nominal timing, or without a data timing for an FD frame with a bit-rate shift; then `E_ID`
for a base-format identifier of more than 11 bits; then `E_CAPACITY` where the bits are more than `MAX_BITS` or one is too
big; otherwise the slot is valid, its snapshot holds the frame slot's flags, DLC, DLEN and identifier and both timings, and
its bits are the logical frame, stuffed. With the room of the values of 00_scope R8 there is no `E_CAPACITY` (42_encoder
R233, 20_memory R67). -/
def Obligations.BuildOutcome : Prop :=
  ∀ (bf : BfIx) (fs : FsIx) (s : State), s.status.err = false → opcodeOf (.build bf fs) = 0x10 ∧
    (s.nbt.valid = false ∨ ((s.frame fs).flags.fdf = true ∧ (s.frame fs).flags.brs = true ∧ s.dbt.valid = false) →
      exec (.build bf fs) s = .next (s.failed 0x08)) ∧
    (s.nbt.valid = true ∧ ((s.frame fs).flags.fdf = true → (s.frame fs).flags.brs = true → s.dbt.valid = true) ∧
        (s.frame fs).flags.ide = false ∧ 2 ^ 11 ≤ (s.frame fs).id.toNat →
      exec (.build bf fs) s = .next (s.failed 0x07)) ∧
    (s.buildable fs →
      let fr := s.frame fs
      let sn : Snap := { flags := fr.flags, dlc := fr.dlc, dlen := fr.dlen, id := fr.id, nbt := s.nbt, dbt := s.dbt }
      ∃ bits : List BitRec, restuff sn true (logicalFrame sn fr) = .ok bits ∧
        exec (.build bf fs) s = .next (
          if s.params.maxBits < bits.length ∨ (bits.any fun b => b.tooBig s.params) = true then s.failed 0x0D
          else s.setSlot bf { valid := true, snap := sn, bits := bits }) ∧
        (s.params.Roomy → bits.length ≤ 4096 ∧ ∀ b ∈ bits, b.tooBig s.params = false))

/-- A slot just built, its stuff bits taken out, is the frame's layout in its format, tag by tag and value by value: header,
DLC, data, in an FD frame 3 stuff-count bits and a parity bit, 15, 17 or 21 CRC bits, and the trailing fields; and every bit
is a fresh one (42_encoder R211 to R219, R227, 43_queries R251). -/
def Obligations.BuiltFrameLayout : Prop :=
  ∀ (bf : BfIx) (fs : FsIx) (s t : State), s.status.err = false → (s.frame fs).Wf →
    exec (.build bf fs) s = .next t → t.status.err = false →
    ∃ sc par cb : List Level,
      ((t.slot bf).bits.filter fun b => b.stuff == .none).map (fun b => (b.tag, b.value)) =
        headerBits (s.frame fs) ++ payloadBits (s.frame fs) ++ sc.map (fun v => (Tag.stuffCount, v))
          ++ par.map (fun v => (Tag.stuffParity, v)) ++ cb.map (fun v => (Tag.crc, v)) ++ trailerBits ∧
      sc.length = (if (s.frame fs).flags.fdf then 3 else 0) ∧ par.length = (if (s.frame fs).flags.fdf then 1 else 0) ∧
      cb.length = crcLength (s.frame fs) ∧
      ∀ b ∈ (t.slot bf).bits, b.fresh (t.slot bf).snap

/-- Regular stuffing after BUILD or UPDATE: in the stuffed region no six bits in a row have one value; after five in a row
stands a regular stuff bit of the other value with the tag of the fifth, unless an FD frame's CRC field follows right there;
every regular stuff bit of the region stands after five bits of the other value; the region has no fixed stuff bit; and the
bit just before an FD frame's CRC field is no stuff bit (42_encoder R220 to R222, R235). -/
def Obligations.RegularStuffing : Prop :=
  ∀ (bf : BfIx) (i : Instr) (s t : State), s.status.err = false →
    ((∃ fs, i = .build bf fs) ∨ ∃ flag, i = .update bf flag) → exec i s = .next t → t.status.err = false →
    let f := t.slot bf
    (∀ k v, ¬ runAt f.stuffRegion k 6 v) ∧
    (∀ k v, runAt f.stuffRegion k 5 v →
      (∃ b c, f.stuffRegion[k + 4]? = some b ∧ f.stuffRegion[k + 5]? = some c ∧ c.stuff = .regular ∧ c.value = flipLevel v ∧
        c.tag = b.tag) ∨
      (f.snap.flags.fdf = true ∧ f.stuffRegion.length = k + 5 ∧ ∃ c, f.bits[k + 5]? = some c ∧ inCrcField c.tag = true)) ∧
    (∀ (j : Nat) (c : BitRec), f.stuffRegion[j]? = some c → c.stuff ≠ .fixed ∧
      (c.stuff = .regular → ∃ k, j = k + 5 ∧ runAt f.stuffRegion k 5 (flipLevel c.value))) ∧
    (∀ (j : Nat) (b c : BitRec), f.snap.flags.fdf = true → f.stuffRegion.length = j + 1 → f.bits[j]? = some b →
      f.bits[j + 1]? = some c → inCrcField c.tag = true → b.stuff = .none)

/-- Fixed stuffing after BUILD or UPDATE: in the CRC field of an FD frame, as far as the prefix reaches into it, every fifth
bit, from the first on, is a fixed stuff bit: the complement of the bit before it (Dominant where there is none), with the tag
of the bit after it, `fsp` alternating from 0; the others are no stuff bits, and before the field there is no fixed stuff
bit; a Classical prefix has none. After BUILD the field is 27 bits (CRC-17) or 32 (CRC-21) and the CRC delimiter follows; no
bit behind the prefix is a stuff bit, and only fixed stuff bits carry `fsp` (42_encoder R221, R223, R224, R230). -/
def Obligations.FixedStuffing : Prop :=
  ∀ (bf : BfIx) (i : Instr) (s t : State), s.status.err = false →
    ((∃ fs, i = .build bf fs) ∨ ∃ flag, i = .update bf flag) → exec i s = .next t → t.status.err = false →
    let f := t.slot bf
    let n := f.stuffRegion.length
    (f.snap.flags.fdf = false → ∀ b ∈ f.prefixBits, b.stuff ≠ .fixed) ∧
    (f.snap.flags.fdf = true →
      (∀ b ∈ f.prefixBits.take n, b.stuff ≠ .fixed) ∧
      ∀ (j : Nat) (b : BitRec), f.prefixBits[n + j]? = some b →
        (j % 5 ≠ 0 → b.stuff = .none) ∧
        (j % 5 = 0 → b.stuff = .fixed ∧ b.fsp = decide (j / 5 % 2 = 1) ∧
          (n + j = 0 → b.value = .dominant) ∧
          (∀ a, n + j ≠ 0 → f.prefixBits[n + j - 1]? = some a → b.value = flipLevel a.value) ∧
          ∃ c, f.prefixBits[n + j + 1]? = some c ∧ b.tag = c.tag)) ∧
    (∀ fs, i = .build bf fs →
      (∀ b ∈ f.bits, b.fsp = true → b.stuff = .fixed) ∧ (∀ b ∈ f.restBits, b.stuff = .none) ∧
      (f.snap.flags.fdf = true → f.prefixBits.length = n + (if (s.frame fs).dlen.toNat ≤ 16 then 27 else 32) ∧
        ∃ d, f.bits[f.prefixBits.length]? = some d ∧ d.tag = .crcDelimiter))

/-- The stuff count of an FD slot after BUILD or UPDATE: the stuff-count bits of the prefix, as many as there are, carry the
Gray code of the number of regular stuff bits before the CRC field mod 8, most significant bit first, and the parity bit the
value that makes the four even (42_encoder R225, R230). After BUILD there are three and one (`BuiltFrameLayout`). -/
def Obligations.StuffCountField : Prop :=
  ∀ (bf : BfIx) (i : Instr) (s t : State), s.status.err = false →
    ((∃ fs, i = .build bf fs) ∨ ∃ flag, i = .update bf flag) → exec i s = .next t → t.status.err = false →
    let f := t.slot bf
    let c := (f.stuffRegion.countP fun b => b.stuff == .regular) % 8
    let logical := f.prefixBits.filter fun b => b.stuff == .none
    f.snap.flags.fdf = true →
      ((logical.filter fun b => b.tag == .stuffCount).map fun b => (b.tag, b.value)) <+:
        fieldBits .stuffCount 3 ([0, 1, 3, 2, 6, 7, 5, 4].getD c 0) ∧
      ((logical.filter fun b => b.tag == .stuffParity).map fun b => (b.tag, b.value)) <+:
        fieldBits .stuffParity 1 ([0, 1, 0, 1, 0, 1, 0, 1].getD c 0)

/-- The CRC after BUILD, or after UPDATE with `FLAG` = 1: the CRC bits of the prefix, as many as there are, are the CRC of the
bits its format covers, most significant bit first; a complete CRC, as BUILD makes it, shifted into the register after those
bits leaves it 0. CRC-15 for a Classical slot, CRC-17 or CRC-21 for an FD one by its data length (42_encoder R226 to
R230). -/
def Obligations.BuiltCrcLeavesZero : Prop :=
  ∀ (bf : BfIx) (i : Instr) (s t : State), s.status.err = false →
    ((∃ fs, i = .build bf fs) ∨ i = .update bf true) → exec i s = .next t → t.status.err = false →
    let f := t.slot bf
    (if f.snap.flags.fdf = false then f.crcFilled 0x4599#15 0
      else if f.snap.dlen.toNat ≤ 16 then f.crcFilled 0x1685B#17 0x10000 else f.crcFilled 0x102899#21 0x100000) ∧
    ∀ fs, i = .build bf fs → f.crcValues.length = crcLength (s.frame fs)

/-- The CRC registers on the 72 bits of "123456789", from the spec's initial values and from 0 (95_test_vectors V-CRC-1 to
V-CRC-3). -/
def Obligations.CrcCheckValues : Prop :=
  let bits : List Level := [0x31, 0x32, 0x33, 0x34, 0x35, 0x36, 0x37, 0x38, 0x39].flatMap fun n => msbFirst (BitVec.ofNat 8 n)
  crc 0x4599#15 0 bits = 0x059E ∧ crc 0x1685B#17 0 bits = 0x04F03 ∧ crc 0x102899#21 0 bits = 0x0ED841 ∧
    crc 0x1685B#17 0x10000 bits = 0x09D9B ∧ crc 0x102899#21 0x100000 bits = 0x1323D8

/-- UPDATE: `E_FIELD` where the prefix holds more CRC-field bits than its format has; otherwise the slot's bits, stuffed
afresh by `Restuff` and followed by the rest as it was, or `E_CAPACITY` where those are more than `MAX_BITS` or a fresh stuff
bit is too big. The prefix's own bits are kept, but for the values of the CRC bits (with `FLAG` = 1) and of an FD frame's
stuff count and parity; every stuff bit in it is a fresh one (42_encoder R230, R234, 20_memory R67). Where the stuff bits
stand and what those values are: `RegularStuffing`, `FixedStuffing`, `StuffCountField`, `BuiltCrcLeavesZero`. -/
def Obligations.UpdateOutcome : Prop :=
  ∀ (bf : BfIx) (flag : Bool) (s : State), s.ready bf → opcodeOf (.update bf flag) = 0x11 ∧
    let f := s.slot bf
    let open' := fun t : Tag => (flag && t == .crc) || (f.snap.flags.fdf && (t == .stuffCount || t == .stuffParity))
    (f.crcFieldTooLong → exec (.update bf flag) s = .next (s.failed 0x0B)) ∧
    (¬f.crcFieldTooLong → ∃ out : List BitRec, restuff f.snap flag f.bits = .ok (out ++ f.restBits) ∧
      exec (.update bf flag) s = .next (
        if s.params.maxBits < out.length + f.restBits.length ∨
            (out.any fun b => b.stuff != .none && b.tooBig s.params) = true then s.failed 0x0D
        else s.setBits bf (out ++ f.restBits)) ∧
      (out.filter fun b => b.stuff == .none).map (BitRec.blank open') =
        (f.prefixBits.filter fun b => b.stuff == .none).map (BitRec.blank open') ∧
      ∀ b ∈ out, b.tag.inFrame = true ∧ (b.stuff ≠ .none → b.fresh f.snap))

/-- UPDATE twice is UPDATE once; and right after BUILD it changes nothing, with `FLAG` either way (42_encoder R235). -/
def Obligations.UpdateIdempotent : Prop :=
  (∀ (bf : BfIx) (flag : Bool) (s t : State), s.status.err = false → exec (.update bf flag) s = .next t →
    t.status.err = false → exec (.update bf flag) t = .next t) ∧
  (∀ (bf : BfIx) (fs : FsIx) (flag : Bool) (s t : State), s.status.err = false → exec (.build bf fs) s = .next t →
    t.status.err = false → exec (.update bf flag) t = .next t)

/-! ### Queries -/

/-- READ_LEN, GET_BIT_INDEX, BIT_CYCLES and GET_NUM_STUFF (43_queries R260, R264, R269, R270). -/
def Obligations.CountingQueries : Prop :=
  ∀ (bf : BfIx) (s : State), s.ready bf →
    opcodeOf (.readLen bf) = 0x12 ∧ opcodeOf (.getBitIndex bf) = 0x1B ∧ opcodeOf (.bitCycles bf) = 0x16 ∧
    exec (.readLen bf) s = .next { s with result0 := BitVec.ofNat 32 (s.slot bf).bits.length } ∧
    exec (.getBitIndex bf) s = .next (
      if (s.slot bf).bits.length ≤ s.arg0.toNat then s.failed 0x0A else { s with result0 := s.arg0 }) ∧
    ((s.slot bf).bits.length ≤ s.arg0.toNat → exec (.bitCycles bf) s = .next (s.failed 0x0A)) ∧
    (∀ b, (s.slot bf).bits[s.arg0.toNat]? = some b →
      exec (.bitCycles bf) s = .next { s with result0 := BitVec.ofNat 32 ((b.tqs.map Tq.len).sum) }) ∧
    (∀ (kind : KindSel) (field : Option Tag) (val : Option Level), opcodeOf (.getNumStuff bf kind field val) = 0x1C ∧
      exec (.getNumStuff bf kind field val) s = .next (s.setResult0 (BitVec.ofNat 32 ((s.slot bf).bits.countP fun b =>
        (match kind with | .any => b.stuff != .none | .regular => b.stuff == .regular | .fixed => b.stuff == .fixed) &&
          (val == none || val == some b.value) && (field == none || field == some b.tag)))))

/-- READ_BIT, READ_TQ and READ_CYCLE: the bit word and the phase-count word; the TQ word and its start cycle; the cycle word;
with the effective values of 10_state R39: a cycle's own force before the quantum's, the quantum's before the bit's value
(43_queries R261 to R263, 30_encoding R99). -/
def Obligations.ReadOutResults : Prop :=
  ∀ (bf : BfIx) (s : State), s.ready bf →
    opcodeOf (.readBit bf) = 0x13 ∧ opcodeOf (.readTq bf) = 0x14 ∧ opcodeOf (.readCycle bf) = 0x15 ∧
    ((s.slot bf).bits.length ≤ s.arg0.toNat → exec (.readBit bf) s = .next (s.failed 0x0A) ∧
      exec (.readTq bf) s = .next (s.failed 0x0A) ∧ exec (.readCycle bf) s = .next (s.failed 0x0A)) ∧
    ∀ b : BitRec, (s.slot bf).bits[s.arg0.toNat]? = some b →
      (∀ forced : Bool, (forced = true ↔ ∃ q ∈ b.tqs, q.tqf ≠ none ∨ ∃ c ∈ q.cyc, c ≠ none) →
        exec (.readBit bf) s = .next { s with
          result0 := 0#22 ++ BitVec.ofBool forced ++ BitVec.ofBool b.fsp ++
            (match b.stuff with | .none => 0#2 | .regular => 1#2 | .fixed => 2#2) ++
            (match b.value with | .dominant => 0#1 | .recessive => 1#1) ++ b.tag.code
          result1 := BitVec.ofNat 8 (b.count .ph2) ++ BitVec.ofNat 8 (b.count .ph1) ++ BitVec.ofNat 8 (b.count .prop) ++
            BitVec.ofNat 8 (b.count .sync) }) ∧
      (b.tqs.length ≤ s.arg1.toNat → exec (.readTq bf) s = .next (s.failed 0x0A) ∧
        exec (.readCycle bf) s = .next (s.failed 0x0A)) ∧
      (∀ (q : Tq) (anycyc : Bool), b.tqs[s.arg1.toNat]? = some q → (anycyc = true ↔ ∃ c ∈ q.cyc, c ≠ none) →
        exec (.readTq bf) s = .next { s with
          result0 := BitVec.ofNat 16 q.len ++ 0#10 ++ BitVec.ofBool anycyc ++ BitVec.ofBool (q.tqf.getD b.value).bit ++
            BitVec.ofBool (q.tqf == some .recessive) ++ BitVec.ofBool (q.tqf != none) ++ q.phase.code
          result1 := BitVec.ofNat 32 (((b.tqs.take s.arg1.toNat).map Tq.len).sum) } ∧
        (q.len ≤ s.arg2.toNat → exec (.readCycle bf) s = .next (s.failed 0x0A)) ∧
        (∀ c : Option Level, s.arg2.toNat < q.len → q.cyc[s.arg2.toNat]? = some c →
          exec (.readCycle bf) s = .next { s with
            result0 := 0#30 ++ BitVec.ofBool (c != none) ++ BitVec.ofBool (c.getD (q.tqf.getD b.value)).bit }))

/-- The waveform of a slot is read cycle by cycle: bit 0 of READ_CYCLE's result is the element of `Wave` that comes after all
cycles of the bits before, of the quanta before, and of the quantum before it (41_bit_timing R174, 43_queries R263). -/
def Obligations.WaveIsReadCycleByCycle : Prop :=
  ∀ (bf : BfIx) (s : State) (b : BitRec) (q : Tq), s.ready bf → (s.slot bf).bits[s.arg0.toNat]? = some b →
    b.tqs[s.arg1.toNat]? = some q → s.arg2.toNat < q.len →
    ∃ (t : State) (v : Level), exec (.readCycle bf) s = .next t ∧ t.result0.getLsbD 0 = v.bit ∧
      (s.slot bf).wave[(((s.slot bf).bits.take s.arg0.toNat).map BitRec.cycles).sum
        + ((b.tqs.take s.arg1.toNat).map Tq.len).sum + s.arg2.toNat]? = some v

/-- GET_BIT_OF, GET_BIT_OF_NS and GET_STUFF_BIT: the index of the ARG0-th bit, counted from 0, with the tag; with the tag
and no stuff bit; of the stuff kind and value; `E_FIELD` where there are too few (43_queries R250, R265, R266, R268). -/
def Obligations.SelectionQueries : Prop :=
  ∀ (bf : BfIx) (s : State), s.ready bf →
    (∀ (i : Instr) (p : BitRec → Bool),
      (∃ f, i = .getBitOf bf f ∧ opcodeOf i = 0x17 ∧ ∀ b, p b = true ↔ b.tag = f) ∨
      (∃ f, i = .getBitOfNs bf f ∧ opcodeOf i = 0x18 ∧ ∀ b, p b = true ↔ b.tag = f ∧ b.stuff = .none) ∨
      (∃ k v, i = .getStuffBit bf k v ∧ opcodeOf i = 0x1A ∧ ∀ b, p b = true ↔
        ((k = .any ∧ b.stuff ≠ .none) ∨ (k = .regular ∧ b.stuff = .regular) ∨ (k = .fixed ∧ b.stuff = .fixed)) ∧
          (v = none ∨ v = some b.value)) →
      ((s.slot bf).bits.countP p ≤ s.arg0.toNat → exec i s = .next (s.failed 0x0B)) ∧
      (∀ x, isNth p (s.slot bf).bits s.arg0.toNat x → exec i s = .next { s with result0 := BitVec.ofNat 32 x }))

/-- GET_RANDOM_BIT_OF: some logical bit of the field, of the filter's value if one is given; `E_FIELD` where there is none
(43_queries R267). Which one is a draw (log entry 6); only the count of draws taken also changes. -/
def Obligations.RandomBitQuery : Prop :=
  ∀ (bf : BfIx) (f : Tag) (v : Option Level) (s : State), s.ready bf → opcodeOf (.getRandomBitOf bf f v) = 0x19 ∧
    ((∀ b ∈ (s.slot bf).bits, ¬(b.tag = f ∧ b.stuff = .none ∧ (v = none ∨ v = some b.value))) →
      exec (.getRandomBitOf bf f v) s = .next (s.failed 0x0B)) ∧
    ((∃ b ∈ (s.slot bf).bits, b.tag = f ∧ b.stuff = .none ∧ (v = none ∨ v = some b.value)) →
      ∃ (x : Nat) (b : BitRec), (s.slot bf).bits[x]? = some b ∧ b.tag = f ∧ b.stuff = .none ∧ (v = none ∨ v = some b.value) ∧
        exec (.getRandomBitOf bf f v) s = .next { s with result0 := BitVec.ofNat 32 x, draws := s.draws + 1 })

/-! ### Structural commands -/

/-- INSERT_BIT and INSERT_BIT_COPY: their checks in order, then a fresh bit, or the copied bit record whole, at position
ARG0, the bits before and after kept (44_structural R289 to R291). That INSERT_BIT raises `E_CAPACITY` also for a fresh bit
with too many or too long quanta is 20_memory R67 with 30_encoding R104 step 7, applied here by log entry 17. -/
def Obligations.InsertResults : Prop :=
  ∀ (bf : BfIx) (s : State), s.ready bf →
    let bits := (s.slot bf).bits
    let n := s.arg0.toNat
    (∀ (f : Tag) (v : Level), opcodeOf (.insertBit bf f v) = 0x20 ∧
      exec (.insertBit bf f v) s = .next (
        if bits.length < n then s.failed 0x0A
        else if s.params.maxBits < bits.length + 1 ∨ (newBit (s.slot bf).snap f v).tooBig s.params = true then s.failed 0x0D
        else s.setBits bf (bits.take n ++ [newBit (s.slot bf).snap f v] ++ bits.drop n))) ∧
    (∀ bf2 : BfIx, (s.slot bf2).valid = true → opcodeOf (.insertBitCopy bf bf2) = 0x21 ∧
      ((s.slot bf2).bits.length ≤ s.arg1.toNat → exec (.insertBitCopy bf bf2) s = .next (s.failed 0x0A)) ∧
      ∀ x, (s.slot bf2).bits[s.arg1.toNat]? = some x → exec (.insertBitCopy bf bf2) s = .next (
        if bits.length < n then s.failed 0x0A else if s.params.maxBits < bits.length + 1 then s.failed 0x0D
        else s.setBits bf (bits.take n ++ [x] ++ bits.drop n)))

/-- REMOVE_BIT: by position ARG0, or the ARG0-th bit of a field; `E_ARG` where `FLAG` and `FSEL` disagree, `E_RANGE` or
`E_FIELD` where there is no such bit (44_structural R292). -/
def Obligations.RemoveBitResult : Prop :=
  ∀ (bf : BfIx) (s : State), s.ready bf →
    let bits := (s.slot bf).bits
    (∀ flag field, opcodeOf (.removeBit bf flag field) = 0x22) ∧
    (∀ f, exec (.removeBit bf false (some f)) s = .next (s.failed 0x02)) ∧
    exec (.removeBit bf true none) s = .next (s.failed 0x02) ∧
    exec (.removeBit bf false none) s = .next (
      if bits.length ≤ s.arg0.toNat then s.failed 0x0A
      else s.setBits bf (bits.take s.arg0.toNat ++ bits.drop (s.arg0.toNat + 1))) ∧
    (∀ f, (bits.countP (fun b => b.tag == f) ≤ s.arg0.toNat →
        exec (.removeBit bf true (some f)) s = .next (s.failed 0x0B)) ∧
      ∀ x, isNth (fun b => b.tag == f) bits s.arg0.toNat x →
        exec (.removeBit bf true (some f)) s = .next (s.setBits bf (bits.take x ++ bits.drop (x + 1))))

/-- APPEND_BIT, APPEND_BF, APPEND_SUSPEND and REMOVE_BITS_FROM: bits added at the end within `MAX_BITS`, or the slot cut at
ARG0 (44_structural R293 to R295, 45_protocol_faults R318). That APPEND_BIT and APPEND_SUSPEND raise `E_CAPACITY` also for a
fresh bit with too many or too long quanta is 20_memory R67 with 30_encoding R104 step 7, applied here by log entry 17. -/
def Obligations.AppendAndTruncateResults : Prop :=
  ∀ (bf : BfIx) (s : State), s.ready bf →
    let bits := (s.slot bf).bits
    (∀ (f : Tag) (v : Level), opcodeOf (.appendBit bf f v) = 0x23 ∧ exec (.appendBit bf f v) s = .next (
      if s.params.maxBits < bits.length + 1 ∨ (newBit (s.slot bf).snap f v).tooBig s.params = true then s.failed 0x0D
      else s.setBits bf (bits ++ [newBit (s.slot bf).snap f v]))) ∧
    (∀ bf2 : BfIx, (s.slot bf2).valid = true → opcodeOf (.appendBf bf bf2) = 0x24 ∧ exec (.appendBf bf bf2) s = .next (
      if s.params.maxBits < bits.length + (s.slot bf2).bits.length then s.failed 0x0D
      else s.setBits bf (bits ++ (s.slot bf2).bits))) ∧
    opcodeOf (.appendSuspend bf) = 0x2F ∧ exec (.appendSuspend bf) s = .next (
      if s.params.maxBits < bits.length + 8 ∨
        (newBit (s.slot bf).snap .suspend .recessive).tooBig s.params = true then s.failed 0x0D
      else s.setBits bf (bits ++ List.replicate 8 (newBit (s.slot bf).snap .suspend .recessive))) ∧
    opcodeOf (.removeBitsFrom bf) = 0x25 ∧ exec (.removeBitsFrom bf) s = .next (
      if bits.length < s.arg0.toNat then s.failed 0x0A else s.setBits bf (bits.take s.arg0.toNat))

/-! ### Protocol faults -/

/-- INS_ACT_ERR, INS_PAS_ERR and INS_OVR: `E_RANGE`, then `E_CAPACITY`; otherwise the bits before ARG0, 6 flag bits, 8
Recessive delimiter bits and 3 Recessive `Intermission` bits, all fresh (45_protocol_faults R311 to R314, R319). That
`E_CAPACITY` is raised also for a fresh bit with too many or too long quanta is 20_memory R67 with 30_encoding R104 step 7,
applied here by log entry 17. -/
def Obligations.InsertFrameResults : Prop :=
  ∀ (bf : BfIx) (s : State) (i : Instr) (ft : Tag) (fv : Level) (dt : Tag), s.ready bf →
    (i = .insActErr bf ∧ opcodeOf i = 0x29 ∧ ft = .activeErrorFlag ∧ fv = .dominant ∧ dt = .errorDelimiter) ∨
      (i = .insPasErr bf ∧ opcodeOf i = 0x2A ∧ ft = .passiveErrorFlag ∧ fv = .recessive ∧ dt = .errorDelimiter) ∨
      (i = .insOvr bf ∧ opcodeOf i = 0x2B ∧ ft = .overloadFlag ∧ fv = .dominant ∧ dt = .overloadDelimiter) →
    let p := s.arg0.toNat
    let sn := (s.slot bf).snap
    ∃ new : List BitRec, new.length = 17 ∧
      exec i s = .next (
        if (s.slot bf).bits.length < p then s.failed 0x0A
        else if s.params.maxBits < p + 17 ∨ (new.any fun b => b.tooBig s.params) = true then s.failed 0x0D
        else s.setBits bf ((s.slot bf).bits.take p ++ new)) ∧
      ∀ (j : Nat) (b : BitRec), new[j]? = some b → b = if j < 6 then newBit sn ft fv
        else if j < 14 then newBit sn dt .recessive else newBit sn .intermission .recessive

/-- TURN_RX and LOOSE_ARB: every bit, or every bit from ARG0 on, becomes Recessive, an `Ack` bit Dominant, in value alone
(45_protocol_faults R310, R315). -/
def Obligations.ReceiverViewResults : Prop :=
  ∀ (bf : BfIx) (s : State), s.ready bf →
    opcodeOf (.turnRx bf) = 0x28 ∧ opcodeOf (.looseArb bf) = 0x2C ∧
    ((s.slot bf).bits.length ≤ s.arg0.toNat → exec (.looseArb bf) s = .next (s.failed 0x0A)) ∧
    ∀ (i : Instr) (k : Nat),
      (i = .turnRx bf ∧ k = 0) ∨ (i = .looseArb bf ∧ k = s.arg0.toNat ∧ s.arg0.toNat < (s.slot bf).bits.length) →
      ∃ bits : List BitRec, exec i s = .next (s.setBits bf bits) ∧ bits.length = (s.slot bf).bits.length ∧
        ∀ (j : Nat) (b : BitRec), (s.slot bf).bits[j]? = some b → bits[j]? = some
          (if j < k then b else { b with value := if b.tag = .ack then .dominant else .recessive })

/-- FLIP_BIT and FLIP_COMP: the nominal value complemented, forces kept; FLIP_COMP adds ARG1 unforced cycles to the last Ph2
quantum, or a Ph2 quantum of ARG1 cycles where there is none, within `MAX_TQ_CYCLES` (45_protocol_faults R316, R317). -/
def Obligations.FlipResults : Prop :=
  ∀ (bf : BfIx) (s : State), s.ready bf →
    let d := s.arg1.toNat
    opcodeOf (.flipBit bf) = 0x2D ∧ opcodeOf (.flipComp bf) = 0x2E ∧
    ((s.slot bf).bits.length ≤ s.arg0.toNat → exec (.flipBit bf) s = .next (s.failed 0x0A) ∧
      exec (.flipComp bf) s = .next (s.failed 0x0A)) ∧
    ∀ b : BitRec, (s.slot bf).bits[s.arg0.toNat]? = some b →
    exec (.flipBit bf) s = .next (s.setBit bf s.arg0 { b with value := flipLevel b.value }) ∧
    (b.count .ph2 = 0 → exec (.flipComp bf) s = .next (
      if s.params.maxTqCycles < d then s.failed 0x0D
      else s.setBit bf s.arg0 { b with
        value := flipLevel b.value
        tqs := if d = 0 then b.tqs else b.tqs ++ [{ phase := .ph2, len := d, tqf := none, cyc := List.replicate d none }] })) ∧
    (∀ (k : Nat) (q : Tq), isLastOf .ph2 b.tqs k → b.tqs[k]? = some q → exec (.flipComp bf) s = .next (
      if s.params.maxTqCycles < q.len + d then s.failed 0x0D
      else s.setBit bf s.arg0 { b with
        value := flipLevel b.value
        tqs := b.tqs.set k { q with len := q.len + d, cyc := q.cyc ++ List.replicate d none } }))
end

