-- ==== Sys2Proof/Laws/Bits.lean ====
section
/-! SUPPORT. Bits of placed fields, and the command word against its fields. -/

namespace Sys2Proof.Laws

/-- Bit `i` of a word that holds the field `v` from bit `lo` up. -/
theorem getLsbD_place {n : Nat} (v : BitVec n) (lo i : Nat) :
    (place v lo).getLsbD i = (decide (i < 32) && decide (lo ≤ i) && v.getLsbD (i - lo)) := by
  by_cases h : i < 32 <;> by_cases h' : lo ≤ i <;> simp [place, h, h', Nat.not_lt.mpr, Nat.lt_of_not_le]

/-- Bit `i` of a word that holds the field `v` from bit `lo` up, as an element. -/
theorem getElem_place {n : Nat} (v : BitVec n) (lo i : Nat) (h : i < 32) :
    (place v lo)[i] = (decide (lo ≤ i) && v.getLsbD (i - lo)) := by
  rw [← BitVec.getLsbD_eq_getElem, getLsbD_place]
  simp [h]

/-- Reading the fields of a word gives back the fields it was put together from (30_encoding R90). -/
theorem ofWord_word (c : C32) : C32.ofWord c.word = c := by
  obtain ⟨opc, bf, bf2, fs, flag, vsel, val, kind, fsel, field, phase, rsv⟩ := c
  simp only [C32.ofWord, C32.word, C32.mk.injEq]
  refine ⟨?_, ?_, ?_, ?_, ?_, ?_, ?_, ?_, ?_, ?_, ?_, ?_⟩ <;>
  · apply BitVec.eq_of_getLsbD_eq
    intro i hi
    interval_cases i <;> simp [getElem_place, BitVec.getLsbD_of_ge]

/-- Putting the fields of a word together gives the word back: the fields of C32 cover all 32 bits (30_encoding R90). -/
theorem word_ofWord (w : Word) : (C32.ofWord w).word = w := by
  apply BitVec.eq_of_getLsbD_eq
  intro i hi
  interval_cases i <;> simp [C32.ofWord, C32.word, getElem_place, BitVec.getLsbD_of_ge]

end Sys2Proof.Laws
end

