-- ==== Sys2Proof/Laws/State.lean ====
section
/-! SUPPORT. The state after each named update, field by field, so that no proof unfolds a record update; and reading a
slot or a frame back after it was written. -/

namespace Sys2Proof.Laws

open Sys2Proof.Machine

/-! ### raise -/

@[simp] theorem raise_status (s : State) (e : Err) :
    (raise s e).status = { s.status with err := true, ecode := e.code } := rfl
@[simp] theorem raise_arg0 (s : State) (e : Err) :
    (raise s e).arg0 = s.arg0 := rfl
@[simp] theorem raise_arg1 (s : State) (e : Err) :
    (raise s e).arg1 = s.arg1 := rfl
@[simp] theorem raise_arg2 (s : State) (e : Err) :
    (raise s e).arg2 = s.arg2 := rfl
@[simp] theorem raise_arg3 (s : State) (e : Err) :
    (raise s e).arg3 = s.arg3 := rfl
@[simp] theorem raise_result0 (s : State) (e : Err) :
    (raise s e).result0 = s.result0 := rfl
@[simp] theorem raise_result1 (s : State) (e : Err) :
    (raise s e).result1 = s.result1 := rfl
@[simp] theorem raise_nbt (s : State) (e : Err) :
    (raise s e).nbt = s.nbt := rfl
@[simp] theorem raise_dbt (s : State) (e : Err) :
    (raise s e).dbt = s.dbt := rfl
@[simp] theorem raise_frames (s : State) (e : Err) :
    (raise s e).frames = s.frames := rfl
@[simp] theorem raise_bfs (s : State) (e : Err) :
    (raise s e).bfs = s.bfs := rfl
@[simp] theorem raise_readData (s : State) (e : Err) :
    (raise s e).readData = s.readData := rfl
@[simp] theorem raise_draws (s : State) (e : Err) :
    (raise s e).draws = s.draws := rfl
@[simp] theorem raise_params (s : State) (e : Err) :
    (raise s e).params = s.params := rfl
@[simp] theorem raise_pending (s : State) (e : Err) :
    (raise s e).pending = s.pending := rfl

/-! ### dropCommand -/

@[simp] theorem dropCommand_status (s : State) :
    (dropCommand s).status = { s.status with drop := true } := rfl
@[simp] theorem dropCommand_arg0 (s : State) :
    (dropCommand s).arg0 = s.arg0 := rfl
@[simp] theorem dropCommand_arg1 (s : State) :
    (dropCommand s).arg1 = s.arg1 := rfl
@[simp] theorem dropCommand_arg2 (s : State) :
    (dropCommand s).arg2 = s.arg2 := rfl
@[simp] theorem dropCommand_arg3 (s : State) :
    (dropCommand s).arg3 = s.arg3 := rfl
@[simp] theorem dropCommand_result0 (s : State) :
    (dropCommand s).result0 = s.result0 := rfl
@[simp] theorem dropCommand_result1 (s : State) :
    (dropCommand s).result1 = s.result1 := rfl
@[simp] theorem dropCommand_nbt (s : State) :
    (dropCommand s).nbt = s.nbt := rfl
@[simp] theorem dropCommand_dbt (s : State) :
    (dropCommand s).dbt = s.dbt := rfl
@[simp] theorem dropCommand_frames (s : State) :
    (dropCommand s).frames = s.frames := rfl
@[simp] theorem dropCommand_bfs (s : State) :
    (dropCommand s).bfs = s.bfs := rfl
@[simp] theorem dropCommand_readData (s : State) :
    (dropCommand s).readData = s.readData := rfl
@[simp] theorem dropCommand_draws (s : State) :
    (dropCommand s).draws = s.draws := rfl
@[simp] theorem dropCommand_params (s : State) :
    (dropCommand s).params = s.params := rfl
@[simp] theorem dropCommand_pending (s : State) :
    (dropCommand s).pending = s.pending := rfl

/-! ### clearStatus -/

@[simp] theorem clearStatus_status (s : State) (v : Word) :
    (clearStatus s v).status = s.status.cleared v := rfl
@[simp] theorem clearStatus_arg0 (s : State) (v : Word) :
    (clearStatus s v).arg0 = s.arg0 := rfl
@[simp] theorem clearStatus_arg1 (s : State) (v : Word) :
    (clearStatus s v).arg1 = s.arg1 := rfl
@[simp] theorem clearStatus_arg2 (s : State) (v : Word) :
    (clearStatus s v).arg2 = s.arg2 := rfl
@[simp] theorem clearStatus_arg3 (s : State) (v : Word) :
    (clearStatus s v).arg3 = s.arg3 := rfl
@[simp] theorem clearStatus_result0 (s : State) (v : Word) :
    (clearStatus s v).result0 = s.result0 := rfl
@[simp] theorem clearStatus_result1 (s : State) (v : Word) :
    (clearStatus s v).result1 = s.result1 := rfl
@[simp] theorem clearStatus_nbt (s : State) (v : Word) :
    (clearStatus s v).nbt = s.nbt := rfl
@[simp] theorem clearStatus_dbt (s : State) (v : Word) :
    (clearStatus s v).dbt = s.dbt := rfl
@[simp] theorem clearStatus_frames (s : State) (v : Word) :
    (clearStatus s v).frames = s.frames := rfl
@[simp] theorem clearStatus_bfs (s : State) (v : Word) :
    (clearStatus s v).bfs = s.bfs := rfl
@[simp] theorem clearStatus_readData (s : State) (v : Word) :
    (clearStatus s v).readData = s.readData := rfl
@[simp] theorem clearStatus_draws (s : State) (v : Word) :
    (clearStatus s v).draws = s.draws := rfl
@[simp] theorem clearStatus_params (s : State) (v : Word) :
    (clearStatus s v).params = s.params := rfl
@[simp] theorem clearStatus_pending (s : State) (v : Word) :
    (clearStatus s v).pending = s.pending := rfl

/-! ### setFrame -/

@[simp] theorem setFrame_status (s : State) (fs : FsIx) (fr : Frame) :
    (s.setFrame fs fr).status = s.status := rfl
@[simp] theorem setFrame_arg0 (s : State) (fs : FsIx) (fr : Frame) :
    (s.setFrame fs fr).arg0 = s.arg0 := rfl
@[simp] theorem setFrame_arg1 (s : State) (fs : FsIx) (fr : Frame) :
    (s.setFrame fs fr).arg1 = s.arg1 := rfl
@[simp] theorem setFrame_arg2 (s : State) (fs : FsIx) (fr : Frame) :
    (s.setFrame fs fr).arg2 = s.arg2 := rfl
@[simp] theorem setFrame_arg3 (s : State) (fs : FsIx) (fr : Frame) :
    (s.setFrame fs fr).arg3 = s.arg3 := rfl
@[simp] theorem setFrame_result0 (s : State) (fs : FsIx) (fr : Frame) :
    (s.setFrame fs fr).result0 = s.result0 := rfl
@[simp] theorem setFrame_result1 (s : State) (fs : FsIx) (fr : Frame) :
    (s.setFrame fs fr).result1 = s.result1 := rfl
@[simp] theorem setFrame_nbt (s : State) (fs : FsIx) (fr : Frame) :
    (s.setFrame fs fr).nbt = s.nbt := rfl
@[simp] theorem setFrame_dbt (s : State) (fs : FsIx) (fr : Frame) :
    (s.setFrame fs fr).dbt = s.dbt := rfl
@[simp] theorem setFrame_frames (s : State) (fs : FsIx) (fr : Frame) :
    (s.setFrame fs fr).frames = s.frames.set fs fr := rfl
@[simp] theorem setFrame_bfs (s : State) (fs : FsIx) (fr : Frame) :
    (s.setFrame fs fr).bfs = s.bfs := rfl
@[simp] theorem setFrame_readData (s : State) (fs : FsIx) (fr : Frame) :
    (s.setFrame fs fr).readData = s.readData := rfl
@[simp] theorem setFrame_draws (s : State) (fs : FsIx) (fr : Frame) :
    (s.setFrame fs fr).draws = s.draws := rfl
@[simp] theorem setFrame_params (s : State) (fs : FsIx) (fr : Frame) :
    (s.setFrame fs fr).params = s.params := rfl
@[simp] theorem setFrame_pending (s : State) (fs : FsIx) (fr : Frame) :
    (s.setFrame fs fr).pending = s.pending := rfl

/-! ### setSlot -/

@[simp] theorem setSlot_status (s : State) (bf : BfIx) (f : BitFrame) :
    (s.setSlot bf f).status = s.status := rfl
@[simp] theorem setSlot_arg0 (s : State) (bf : BfIx) (f : BitFrame) :
    (s.setSlot bf f).arg0 = s.arg0 := rfl
@[simp] theorem setSlot_arg1 (s : State) (bf : BfIx) (f : BitFrame) :
    (s.setSlot bf f).arg1 = s.arg1 := rfl
@[simp] theorem setSlot_arg2 (s : State) (bf : BfIx) (f : BitFrame) :
    (s.setSlot bf f).arg2 = s.arg2 := rfl
@[simp] theorem setSlot_arg3 (s : State) (bf : BfIx) (f : BitFrame) :
    (s.setSlot bf f).arg3 = s.arg3 := rfl
@[simp] theorem setSlot_result0 (s : State) (bf : BfIx) (f : BitFrame) :
    (s.setSlot bf f).result0 = s.result0 := rfl
@[simp] theorem setSlot_result1 (s : State) (bf : BfIx) (f : BitFrame) :
    (s.setSlot bf f).result1 = s.result1 := rfl
@[simp] theorem setSlot_nbt (s : State) (bf : BfIx) (f : BitFrame) :
    (s.setSlot bf f).nbt = s.nbt := rfl
@[simp] theorem setSlot_dbt (s : State) (bf : BfIx) (f : BitFrame) :
    (s.setSlot bf f).dbt = s.dbt := rfl
@[simp] theorem setSlot_frames (s : State) (bf : BfIx) (f : BitFrame) :
    (s.setSlot bf f).frames = s.frames := rfl
@[simp] theorem setSlot_bfs (s : State) (bf : BfIx) (f : BitFrame) :
    (s.setSlot bf f).bfs = s.bfs.set bf f := rfl
@[simp] theorem setSlot_readData (s : State) (bf : BfIx) (f : BitFrame) :
    (s.setSlot bf f).readData = s.readData := rfl
@[simp] theorem setSlot_draws (s : State) (bf : BfIx) (f : BitFrame) :
    (s.setSlot bf f).draws = s.draws := rfl
@[simp] theorem setSlot_params (s : State) (bf : BfIx) (f : BitFrame) :
    (s.setSlot bf f).params = s.params := rfl
@[simp] theorem setSlot_pending (s : State) (bf : BfIx) (f : BitFrame) :
    (s.setSlot bf f).pending = s.pending := rfl

/-! ### setBits -/

@[simp] theorem setBits_status (s : State) (bf : BfIx) (bits : List BitRec) :
    (s.setBits bf bits).status = s.status := rfl
@[simp] theorem setBits_arg0 (s : State) (bf : BfIx) (bits : List BitRec) :
    (s.setBits bf bits).arg0 = s.arg0 := rfl
@[simp] theorem setBits_arg1 (s : State) (bf : BfIx) (bits : List BitRec) :
    (s.setBits bf bits).arg1 = s.arg1 := rfl
@[simp] theorem setBits_arg2 (s : State) (bf : BfIx) (bits : List BitRec) :
    (s.setBits bf bits).arg2 = s.arg2 := rfl
@[simp] theorem setBits_arg3 (s : State) (bf : BfIx) (bits : List BitRec) :
    (s.setBits bf bits).arg3 = s.arg3 := rfl
@[simp] theorem setBits_result0 (s : State) (bf : BfIx) (bits : List BitRec) :
    (s.setBits bf bits).result0 = s.result0 := rfl
@[simp] theorem setBits_result1 (s : State) (bf : BfIx) (bits : List BitRec) :
    (s.setBits bf bits).result1 = s.result1 := rfl
@[simp] theorem setBits_nbt (s : State) (bf : BfIx) (bits : List BitRec) :
    (s.setBits bf bits).nbt = s.nbt := rfl
@[simp] theorem setBits_dbt (s : State) (bf : BfIx) (bits : List BitRec) :
    (s.setBits bf bits).dbt = s.dbt := rfl
@[simp] theorem setBits_frames (s : State) (bf : BfIx) (bits : List BitRec) :
    (s.setBits bf bits).frames = s.frames := rfl
@[simp] theorem setBits_bfs (s : State) (bf : BfIx) (bits : List BitRec) :
    (s.setBits bf bits).bfs = s.bfs.set bf { s.slot bf with bits := bits } := rfl
@[simp] theorem setBits_readData (s : State) (bf : BfIx) (bits : List BitRec) :
    (s.setBits bf bits).readData = s.readData := rfl
@[simp] theorem setBits_draws (s : State) (bf : BfIx) (bits : List BitRec) :
    (s.setBits bf bits).draws = s.draws := rfl
@[simp] theorem setBits_params (s : State) (bf : BfIx) (bits : List BitRec) :
    (s.setBits bf bits).params = s.params := rfl
@[simp] theorem setBits_pending (s : State) (bf : BfIx) (bits : List BitRec) :
    (s.setBits bf bits).pending = s.pending := rfl

/-! ### setBit -/

@[simp] theorem setBit_status (s : State) (bf : BfIx) (i : Word) (b : BitRec) :
    (s.setBit bf i b).status = s.status := rfl
@[simp] theorem setBit_arg0 (s : State) (bf : BfIx) (i : Word) (b : BitRec) :
    (s.setBit bf i b).arg0 = s.arg0 := rfl
@[simp] theorem setBit_arg1 (s : State) (bf : BfIx) (i : Word) (b : BitRec) :
    (s.setBit bf i b).arg1 = s.arg1 := rfl
@[simp] theorem setBit_arg2 (s : State) (bf : BfIx) (i : Word) (b : BitRec) :
    (s.setBit bf i b).arg2 = s.arg2 := rfl
@[simp] theorem setBit_arg3 (s : State) (bf : BfIx) (i : Word) (b : BitRec) :
    (s.setBit bf i b).arg3 = s.arg3 := rfl
@[simp] theorem setBit_result0 (s : State) (bf : BfIx) (i : Word) (b : BitRec) :
    (s.setBit bf i b).result0 = s.result0 := rfl
@[simp] theorem setBit_result1 (s : State) (bf : BfIx) (i : Word) (b : BitRec) :
    (s.setBit bf i b).result1 = s.result1 := rfl
@[simp] theorem setBit_nbt (s : State) (bf : BfIx) (i : Word) (b : BitRec) :
    (s.setBit bf i b).nbt = s.nbt := rfl
@[simp] theorem setBit_dbt (s : State) (bf : BfIx) (i : Word) (b : BitRec) :
    (s.setBit bf i b).dbt = s.dbt := rfl
@[simp] theorem setBit_frames (s : State) (bf : BfIx) (i : Word) (b : BitRec) :
    (s.setBit bf i b).frames = s.frames := rfl
@[simp] theorem setBit_bfs (s : State) (bf : BfIx) (i : Word) (b : BitRec) :
    (s.setBit bf i b).bfs = s.bfs.set bf { s.slot bf with bits := (s.slot bf).bits.set i.toNat b } := rfl
@[simp] theorem setBit_readData (s : State) (bf : BfIx) (i : Word) (b : BitRec) :
    (s.setBit bf i b).readData = s.readData := rfl
@[simp] theorem setBit_draws (s : State) (bf : BfIx) (i : Word) (b : BitRec) :
    (s.setBit bf i b).draws = s.draws := rfl
@[simp] theorem setBit_params (s : State) (bf : BfIx) (i : Word) (b : BitRec) :
    (s.setBit bf i b).params = s.params := rfl
@[simp] theorem setBit_pending (s : State) (bf : BfIx) (i : Word) (b : BitRec) :
    (s.setBit bf i b).pending = s.pending := rfl

/-! ### setResult0 -/

@[simp] theorem setResult0_status (s : State) (v : Word) :
    (s.setResult0 v).status = s.status := rfl
@[simp] theorem setResult0_arg0 (s : State) (v : Word) :
    (s.setResult0 v).arg0 = s.arg0 := rfl
@[simp] theorem setResult0_arg1 (s : State) (v : Word) :
    (s.setResult0 v).arg1 = s.arg1 := rfl
@[simp] theorem setResult0_arg2 (s : State) (v : Word) :
    (s.setResult0 v).arg2 = s.arg2 := rfl
@[simp] theorem setResult0_arg3 (s : State) (v : Word) :
    (s.setResult0 v).arg3 = s.arg3 := rfl
@[simp] theorem setResult0_result0 (s : State) (v : Word) :
    (s.setResult0 v).result0 = v := rfl
@[simp] theorem setResult0_result1 (s : State) (v : Word) :
    (s.setResult0 v).result1 = s.result1 := rfl
@[simp] theorem setResult0_nbt (s : State) (v : Word) :
    (s.setResult0 v).nbt = s.nbt := rfl
@[simp] theorem setResult0_dbt (s : State) (v : Word) :
    (s.setResult0 v).dbt = s.dbt := rfl
@[simp] theorem setResult0_frames (s : State) (v : Word) :
    (s.setResult0 v).frames = s.frames := rfl
@[simp] theorem setResult0_bfs (s : State) (v : Word) :
    (s.setResult0 v).bfs = s.bfs := rfl
@[simp] theorem setResult0_readData (s : State) (v : Word) :
    (s.setResult0 v).readData = s.readData := rfl
@[simp] theorem setResult0_draws (s : State) (v : Word) :
    (s.setResult0 v).draws = s.draws := rfl
@[simp] theorem setResult0_params (s : State) (v : Word) :
    (s.setResult0 v).params = s.params := rfl
@[simp] theorem setResult0_pending (s : State) (v : Word) :
    (s.setResult0 v).pending = s.pending := rfl

/-! ### setResults -/

@[simp] theorem setResults_status (s : State) (v0 v1 : Word) :
    (s.setResults v0 v1).status = s.status := rfl
@[simp] theorem setResults_arg0 (s : State) (v0 v1 : Word) :
    (s.setResults v0 v1).arg0 = s.arg0 := rfl
@[simp] theorem setResults_arg1 (s : State) (v0 v1 : Word) :
    (s.setResults v0 v1).arg1 = s.arg1 := rfl
@[simp] theorem setResults_arg2 (s : State) (v0 v1 : Word) :
    (s.setResults v0 v1).arg2 = s.arg2 := rfl
@[simp] theorem setResults_arg3 (s : State) (v0 v1 : Word) :
    (s.setResults v0 v1).arg3 = s.arg3 := rfl
@[simp] theorem setResults_result0 (s : State) (v0 v1 : Word) :
    (s.setResults v0 v1).result0 = v0 := rfl
@[simp] theorem setResults_result1 (s : State) (v0 v1 : Word) :
    (s.setResults v0 v1).result1 = v1 := rfl
@[simp] theorem setResults_nbt (s : State) (v0 v1 : Word) :
    (s.setResults v0 v1).nbt = s.nbt := rfl
@[simp] theorem setResults_dbt (s : State) (v0 v1 : Word) :
    (s.setResults v0 v1).dbt = s.dbt := rfl
@[simp] theorem setResults_frames (s : State) (v0 v1 : Word) :
    (s.setResults v0 v1).frames = s.frames := rfl
@[simp] theorem setResults_bfs (s : State) (v0 v1 : Word) :
    (s.setResults v0 v1).bfs = s.bfs := rfl
@[simp] theorem setResults_readData (s : State) (v0 v1 : Word) :
    (s.setResults v0 v1).readData = s.readData := rfl
@[simp] theorem setResults_draws (s : State) (v0 v1 : Word) :
    (s.setResults v0 v1).draws = s.draws := rfl
@[simp] theorem setResults_params (s : State) (v0 v1 : Word) :
    (s.setResults v0 v1).params = s.params := rfl
@[simp] theorem setResults_pending (s : State) (v0 v1 : Word) :
    (s.setResults v0 v1).pending = s.pending := rfl

/-! ### popped -/

@[simp] theorem popped_status (s : State) :
    (s.popped).status = s.status := rfl
@[simp] theorem popped_arg0 (s : State) :
    (s.popped).arg0 = s.arg0 := rfl
@[simp] theorem popped_arg1 (s : State) :
    (s.popped).arg1 = s.arg1 := rfl
@[simp] theorem popped_arg2 (s : State) :
    (s.popped).arg2 = s.arg2 := rfl
@[simp] theorem popped_arg3 (s : State) :
    (s.popped).arg3 = s.arg3 := rfl
@[simp] theorem popped_result0 (s : State) :
    (s.popped).result0 = s.result0 := rfl
@[simp] theorem popped_result1 (s : State) :
    (s.popped).result1 = s.result1 := rfl
@[simp] theorem popped_nbt (s : State) :
    (s.popped).nbt = s.nbt := rfl
@[simp] theorem popped_dbt (s : State) :
    (s.popped).dbt = s.dbt := rfl
@[simp] theorem popped_frames (s : State) :
    (s.popped).frames = s.frames := rfl
@[simp] theorem popped_bfs (s : State) :
    (s.popped).bfs = s.bfs := rfl
@[simp] theorem popped_readData (s : State) :
    (s.popped).readData = s.readData := rfl
@[simp] theorem popped_draws (s : State) :
    (s.popped).draws = s.draws := rfl
@[simp] theorem popped_params (s : State) :
    (s.popped).params = s.params := rfl
@[simp] theorem popped_pending (s : State) :
    (s.popped).pending = s.pending.tail := rfl

/-! ### Slots and frames read back -/

@[simp] theorem frame_setFrame_same (s : State) (fs : FsIx) (fr : Frame) : (s.setFrame fs fr).frame fs = fr := by
  simp [State.frame, State.setFrame]

theorem frame_setFrame_ne (s : State) (fs k : FsIx) (fr : Frame) (h : k ≠ fs) :
    (s.setFrame fs fr).frame k = s.frame k := by
  simp only [State.frame, State.setFrame, Fin.getElem_fin]
  exact Vector.getElem_set_ne _ _ (fun e => h (Fin.ext e.symm))

@[simp] theorem slot_setSlot_same (s : State) (bf : BfIx) (f : BitFrame) : (s.setSlot bf f).slot bf = f := by
  simp [State.slot, State.setSlot]

theorem slot_setSlot_ne (s : State) (bf k : BfIx) (f : BitFrame) (h : k ≠ bf) :
    (s.setSlot bf f).slot k = s.slot k := by
  simp only [State.slot, State.setSlot, Fin.getElem_fin]
  exact Vector.getElem_set_ne _ _ (fun e => h (Fin.ext e.symm))

@[simp] theorem slot_setBits_same (s : State) (bf : BfIx) (bits : List BitRec) :
    (s.setBits bf bits).slot bf = { s.slot bf with bits := bits } :=
  slot_setSlot_same s bf _

theorem slot_setBits_ne (s : State) (bf k : BfIx) (bits : List BitRec) (h : k ≠ bf) :
    (s.setBits bf bits).slot k = s.slot k :=
  slot_setSlot_ne s bf k _ h

@[simp] theorem frame_setBits (s : State) (bf : BfIx) (bits : List BitRec) (fs : FsIx) :
    (s.setBits bf bits).frame fs = s.frame fs := rfl

@[simp] theorem frame_setSlot (s : State) (bf : BfIx) (f : BitFrame) (fs : FsIx) :
    (s.setSlot bf f).frame fs = s.frame fs := rfl

@[simp] theorem slot_setFrame (s : State) (fs : FsIx) (fr : Frame) (bf : BfIx) :
    (s.setFrame fs fr).slot bf = s.slot bf := rfl

@[simp] theorem slot_raise (s : State) (e : Err) (bf : BfIx) : (raise s e).slot bf = s.slot bf := rfl

@[simp] theorem frame_raise (s : State) (e : Err) (fs : FsIx) : (raise s e).frame fs = s.frame fs := rfl

/-- Setting the bits a slot already has changes nothing. -/
theorem setBits_self (s : State) (bf : BfIx) : s.setBits bf (s.slot bf).bits = s := by
  have h : s.bfs.set bf s.bfs[bf] = s.bfs := Vector.set_getElem_self _
  show ({ s with bfs := s.bfs.set bf s.bfs[bf] } : State) = s
  rw [h]

end Sys2Proof.Laws
end

