-- ==== Sys2Proof/Laws/Ops.lean ====
section
/-! SUPPORT. For each shared operation, what it can do: running a command, the slot, bit and quantum checks, fresh bits, the
time quanta of a bit, selections. -/

namespace Sys2Proof.Laws

open Sys2Proof.Machine

/-! ### Running a command -/

theorem command_drop {s : State} {body : Except Err State} (h : s.status.err = true) :
    command s body = .next (dropCommand s) := by simp [command, h]

theorem command_ok {s t : State} (h : s.status.err = false) : command s (.ok t) = .next t := by simp [command, h]

theorem command_error {s : State} {e : Err} (h : s.status.err = false) :
    command s (.error e) = .next (raise s e) := by simp [command, h]

/-- Everything a command can do: be dropped, commit its body's state, or fail. -/
theorem command_cases {s t : State} {body : Except Err State} (h : command s body = .next t) :
    (s.status.err = true ∧ t = dropCommand s) ∨ (s.status.err = false ∧ body = .ok t) ∨
      (s.status.err = false ∧ ∃ e, body = .error e ∧ t = raise s e) := by
  unfold command at h
  split at h
  · exact .inl ⟨by assumption, by simpa using h.symm⟩
  · next hr =>
    have hr' : s.status.err = false := by simpa using hr
    split at h
    · exact .inr (.inl ⟨hr', by simpa using h⟩)
    · exact .inr (.inr ⟨hr', _, rfl, by simpa using h.symm⟩)

/-- A command always answers a next state. -/
theorem command_next (s : State) (body : Except Err State) : ∃ t, command s body = .next t := by
  unfold command
  split
  · exact ⟨_, rfl⟩
  · split <;> exact ⟨_, rfl⟩

/-! ### The checks -/

theorem withSlot_built {α : Type} {s : State} {bf : BfIx} {k : BitFrame → Except Err α} (h : (s.slot bf).valid = true) :
    withSlot s bf k = k (s.slot bf) := by simp [withSlot, h]

theorem withSlot_unbuilt {α : Type} {s : State} {bf : BfIx} {k : BitFrame → Except Err α}
    (h : (s.slot bf).valid = false) : withSlot s bf k = .error .slot := by simp [withSlot, h]

/-- Where a slot check lets a command end well, the slot is built. -/
theorem withSlot_ok {α : Type} {s : State} {bf : BfIx} {k : BitFrame → Except Err α} {a : α}
    (h : withSlot s bf k = .ok a) : (s.slot bf).valid = true ∧ k (s.slot bf) = .ok a := by
  unfold withSlot at h
  split at h
  · exact ⟨by assumption, h⟩
  · cases h

theorem withBit_some {α : Type} {f : BitFrame} {i : Word} {k : BitRec → Except Err α} {b : BitRec}
    (h : f.bits[i.toNat]? = some b) : withBit f i k = k b := by simp [withBit, h]

theorem withBit_out {α : Type} {f : BitFrame} {i : Word} {k : BitRec → Except Err α} (h : f.bits.length ≤ i.toNat) :
    withBit f i k = .error .range := by simp [withBit, h]

/-- Where a bit check lets a command end well, the slot has the bit. -/
theorem withBit_ok {α : Type} {f : BitFrame} {i : Word} {k : BitRec → Except Err α} {a : α}
    (h : withBit f i k = .ok a) : ∃ b, f.bits[i.toNat]? = some b ∧ k b = .ok a := by
  unfold withBit at h
  split at h
  · exact ⟨_, by assumption, h⟩
  · cases h

theorem withTq_some {α : Type} {b : BitRec} {j : Nat} {k : Tq → Except Err α} {q : Tq} (h : b.tqs[j]? = some q) :
    withTq b j k = k q := by simp [withTq, h]

theorem withTq_out {α : Type} {b : BitRec} {j : Nat} {k : Tq → Except Err α} (h : b.tqs.length ≤ j) :
    withTq b j k = .error .range := by simp [withTq, h]

/-- Where a quantum check lets a command end well, the bit has the quantum. -/
theorem withTq_ok {α : Type} {b : BitRec} {j : Nat} {k : Tq → Except Err α} {a : α} (h : withTq b j k = .ok a) :
    ∃ q, b.tqs[j]? = some q ∧ k q = .ok a := by
  unfold withTq at h
  split at h
  · exact ⟨_, by assumption, h⟩
  · cases h

/-- The capacity check answers the bits it was given, within all bounds, or `E_CAPACITY`. -/
theorem withinCapacity_cases (c : Config.Params) (made bits : List BitRec) :
    (bits.length ≤ c.maxBits ∧ (∀ b ∈ made, b.fits c = true) ∧ withinCapacity c made bits = .ok bits) ∨
      ((c.maxBits < bits.length ∨ ∃ b ∈ made, b.fits c = false) ∧ withinCapacity c made bits = .error .capacity) := by
  unfold withinCapacity
  split
  · next h => exact .inr ⟨h.imp_right fun h => by simpa using h, rfl⟩
  · next h =>
    rw [not_or] at h
    exact .inl ⟨by omega, by simpa using h.2, rfl⟩

/-- A bit is within the bounds exactly where it is not too big for them (20_memory R67). -/
theorem fits_eq (c : Config.Params) (b : BitRec) : b.fits c = !b.tooBig c := by
  rw [Bool.eq_iff_iff]
  simp [BitRec.fits, BitRec.tooBig, and_assoc]

/-! ### Fresh bits -/

@[simp] theorem newBit_tag (sn : Snap) (t : Tag) (v : Level) : (newBit sn t v).tag = t := rfl
@[simp] theorem newBit_value (sn : Snap) (t : Tag) (v : Level) : (newBit sn t v).value = v := rfl
@[simp] theorem newBit_stuff (sn : Snap) (t : Tag) (v : Level) : (newBit sn t v).stuff = .none := rfl
@[simp] theorem newBit_fsp (sn : Snap) (t : Tag) (v : Level) : (newBit sn t v).fsp = false := rfl
@[simp] theorem stuffBit_tag (sn : Snap) (t : Tag) (v : Level) (k : StuffKind) (p : Bool) :
    (stuffBit sn t v k p).tag = t := rfl
@[simp] theorem stuffBit_value (sn : Snap) (t : Tag) (v : Level) (k : StuffKind) (p : Bool) :
    (stuffBit sn t v k p).value = flipLevel v := rfl
@[simp] theorem stuffBit_stuff (sn : Snap) (t : Tag) (v : Level) (k : StuffKind) (p : Bool) :
    (stuffBit sn t v k p).stuff = k := rfl
@[simp] theorem stuffBit_fsp (sn : Snap) (t : Tag) (v : Level) (k : StuffKind) (p : Bool) :
    (stuffBit sn t v k p).fsp = p := rfl
@[simp] theorem newTq_phase (p : Phase) (n : Nat) : (newTq p n).phase = p := rfl
@[simp] theorem newTq_len (p : Phase) (n : Nat) : (newTq p n).len = n := rfl
@[simp] theorem flipLevel_flipLevel (v : Level) : flipLevel (flipLevel v) = v := by cases v <;> rfl
theorem flipLevel_ne (v : Level) : flipLevel v ≠ v := by cases v <;> simp [flipLevel]

/-- A fresh bit has, in each phase, the quanta its timing gives that phase (41_bit_timing R171). -/
theorem newBit_count (sn : Snap) (t : Tag) (v : Level) (p : Phase) :
    (newBit sn t v).count p = (sn.timing t p).quanta p := by
  cases p <;> simp [BitRec.count, newBit, newPhase, List.countP_append, List.countP_replicate]

/-! ### Indices in a list -/

/-- The first index found satisfies the test, and no earlier one does. -/
theorem firstIdx_some {α : Type} {p : α → Bool} {l : List α} {k : Nat} (h : firstIdx p l = some k) :
    (∃ x, l[k]? = some x ∧ p x = true) ∧ ∀ j < k, ∀ y, l[j]? = some y → p y = false := by
  induction l generalizing k with
  | nil => cases h
  | cons x xs ih =>
    unfold firstIdx at h
    split at h
    · next hx =>
      obtain rfl : 0 = k := by simpa using h
      exact ⟨⟨x, by simp, hx⟩, fun j hj => by omega⟩
    · next hx =>
      obtain ⟨k', hk', rfl⟩ := Option.map_eq_some_iff.mp h
      obtain ⟨⟨y, hy, hpy⟩, hlt⟩ := ih hk'
      refine ⟨⟨y, by simpa using hy, hpy⟩, fun j hj z hz => ?_⟩
      cases j with
      | zero => simp only [List.getElem?_cons_zero, Option.some.injEq] at hz; subst hz; simpa using hx
      | succ j => exact hlt j (by omega) z (by simpa using hz)

theorem firstIdx_none {α : Type} {p : α → Bool} {l : List α} : firstIdx p l = none ↔ l.countP p = 0 := by
  induction l with
  | nil => simp [firstIdx]
  | cons x xs ih =>
    by_cases hx : p x = true <;> simp [firstIdx, hx, ih]

/-- The last index found satisfies the test, and no later one does. -/
theorem lastIdx_some {α : Type} {p : α → Bool} {l : List α} {k : Nat} (h : lastIdx p l = some k) :
    (∃ x, l[k]? = some x ∧ p x = true) ∧ ∀ j, k < j → ∀ y, l[j]? = some y → p y = false := by
  have hnone : ∀ l : List α, lastIdx p l = none → ∀ x ∈ l, p x = false := by
    intro l
    induction l with
    | nil => simp
    | cons x xs ih =>
      intro h y hy
      unfold lastIdx at h
      split at h
      · cases h
      · next hxs =>
        split at h
        · cases h
        · next hx =>
          rcases List.mem_cons.mp hy with rfl | hy
          · simpa using hx
          · exact ih hxs y hy
  induction l generalizing k with
  | nil => cases h
  | cons x xs ih =>
    unfold lastIdx at h
    split at h
    · next k' hk' =>
      obtain rfl : k' + 1 = k := by simpa using h
      obtain ⟨⟨y, hy, hpy⟩, hgt⟩ := ih hk'
      refine ⟨⟨y, by simpa using hy, hpy⟩, fun j hj z hz => ?_⟩
      cases j with
      | zero => omega
      | succ j => exact hgt j (by omega) z (by simpa using hz)
    · next hxs =>
      split at h
      · next hx =>
        obtain rfl : 0 = k := by simpa using h
        refine ⟨⟨x, by simp, hx⟩, fun j hj z hz => ?_⟩
        cases j with
        | zero => omega
        | succ j => exact hnone xs hxs z (List.mem_of_getElem? (by simpa using hz))
      · cases h

theorem lastIdx_none {α : Type} {p : α → Bool} {l : List α} : lastIdx p l = none ↔ l.countP p = 0 := by
  induction l with
  | nil => simp [lastIdx]
  | cons x xs ih =>
    by_cases hx : p x = true
    · simp only [lastIdx, hx, List.countP_cons]
      cases h : lastIdx p xs <;> simp
    · cases h : lastIdx p xs with
      | none => simp [lastIdx, h, hx, ih.mp h]
      | some k =>
        have h0 : ¬ xs.countP p = 0 := fun c => by simp [ih.mpr c] at h
        simp only [lastIdx, h, List.countP_cons, hx]
        simpa using h0

/-- `first(b, p)` is undefined exactly where the phase is empty (41_bit_timing R173). -/
theorem first_none {b : BitRec} {p : Phase} : b.first p = none ↔ b.count p = 0 := firstIdx_none

/-- `last(b, p)` is undefined exactly where the phase is empty (41_bit_timing R173). -/
theorem last_none {b : BitRec} {p : Phase} : b.last p = none ↔ b.count p = 0 := lastIdx_none

/-! ### Selections -/

/-- Element `n` of a selection is an index whose bit satisfies the test, with exactly `n` such bits before it. -/
theorem indicesFrom_get {p : BitRec → Bool} {bits : List BitRec} {k n i : Nat}
    (h : (indicesFrom p k bits)[n]? = some i) :
    k ≤ i ∧ (∃ b, bits[i - k]? = some b ∧ p b = true) ∧ (bits.take (i - k)).countP p = n := by
  induction bits generalizing k n with
  | nil => simp [indicesFrom] at h
  | cons x xs ih =>
    unfold indicesFrom at h
    split at h
    · next hx =>
      cases n with
      | zero =>
        obtain rfl : k = i := by simpa using h
        simpa using hx
      | succ n =>
        obtain ⟨hle, ⟨b, hb, hpb⟩, hc⟩ := ih (k := k + 1) (n := n) (by simpa using h)
        obtain ⟨d, rfl⟩ : ∃ d, i = k + 1 + d := ⟨i - (k + 1), by omega⟩
        rw [show k + 1 + d - (k + 1) = d by omega] at hb hc
        rw [show k + 1 + d - k = d + 1 by omega]
        exact ⟨by omega, ⟨b, by simpa using hb, hpb⟩, by simp [hx, hc]⟩
    · next hx =>
      obtain ⟨hle, ⟨b, hb, hpb⟩, hc⟩ := ih (k := k + 1) (n := n) h
      obtain ⟨d, rfl⟩ : ∃ d, i = k + 1 + d := ⟨i - (k + 1), by omega⟩
      rw [show k + 1 + d - (k + 1) = d by omega] at hb hc
      rw [show k + 1 + d - k = d + 1 by omega]
      exact ⟨by omega, ⟨b, by simpa using hb, hpb⟩, by simp [hx, hc]⟩

/-- A selection has one element for each bit that satisfies the test. -/
@[simp] theorem length_indicesFrom (p : BitRec → Bool) (k : Nat) (bits : List BitRec) :
    (indicesFrom p k bits).length = bits.countP p := by
  induction bits generalizing k with
  | nil => rfl
  | cons x xs ih => by_cases hx : p x = true <;> simp [indicesFrom, hx, ih]

/-! ### Error and overload frames -/

/-- `InsFrame` within its checks: the bits kept, then 6 flag, 8 delimiter and 3 intermission bits (45_protocol_faults R311). -/
theorem insFrame_ok {c : Config.Params} {f : BitFrame} {p : Nat} {ft dt : Tag} {fv : Level} (h : p ≤ f.bits.length)
    (hc : p + 17 ≤ c.maxBits) (h1 : (newBit f.snap ft fv).fits c = true) (h2 : (newBit f.snap dt .recessive).fits c = true)
    (h3 : (newBit f.snap .intermission .recessive).fits c = true) :
    insFrame c f p ft fv dt = .ok (f.bits.take p ++ (List.replicate 6 (newBit f.snap ft fv)
      ++ List.replicate 8 (newBit f.snap dt .recessive) ++ List.replicate 3 (newBit f.snap .intermission .recessive))) := by
  have hl : min p f.bits.length + 17 ≤ c.maxBits := by omega
  simp [insFrame, Nat.not_lt.mpr h, withinCapacity, Nat.not_lt.mpr hl, h1, h2, h3]

/-! ### Words and the slots of the block -/

/-- In a block that has every slot the command word names, no command names an absent one. -/
theorem slotsExist_covers {c : Config.Params} (h : c.Covers) (w : Word) (i : Instr) : slotsExist c w i = true := by
  obtain ⟨h1, h2⟩ := h
  have hbf := (C32.ofWord w).bf.isLt
  have hbf2 := (C32.ofWord w).bf2.isLt
  have hfs := (C32.ofWord w).fs.isLt
  simp only [slotsExist, Bool.and_eq_true, Bool.or_eq_true, decide_eq_true_eq]
  exact ⟨⟨⟨by omega, by omega⟩, by omega⟩, .inr h2⟩

/-- A command on slots the block has runs as `exec` says. -/
theorem runWord_exec {s : State} {w : Word} {i : Instr} (h : decode w = .ok i) (hb : slotsExist s.params w i = true) :
    runWord w s = exec i s := by simp [runWord, h, hb]

/-- A command on an absent slot is refused by name, unless it is dropped. -/
theorem runWord_absent {s : State} {w : Word} {i : Instr} (h : decode w = .ok i)
    (hb : slotsExist s.params w i = false) :
    runWord w s = if s.status.err then .next (dropCommand s) else .refused .absentSlot := by simp [runWord, h, hb]

/-! ### Timing fields -/

/-- Replacing only what does not fit leaves a timing that fits as it is. -/
theorem mapFields_fit {w : Nat} {t : BitTiming} (h : t.fits w = true) (x : Nat → BitVec 8) :
    t.mapFields (fun j v => fitField w (x j) v) = t := by
  simp only [BitTiming.fits, List.all_cons, List.all_nil, Bool.and_true, Bool.and_eq_true, decide_eq_true_eq] at h
  simp [BitTiming.mapFields, fitField, h]

/-- A timing that fits is stored as it is. -/
theorem stored_of_fits {w : Nat} {t : BitTiming} (k : Nat) (h : t.fits w = true) : t.stored w k = t := by
  simp only [BitTiming.stored, mapFields_fit h, ite_self]

/-- A field replaced by a value of the width where it does not fit has a value of the width. -/
theorem fitField_lt {w : Nat} {x : BitVec 8} (h : x.toNat < 2 ^ w) (v : BitVec 8) : (fitField w x v).toNat < 2 ^ w := by
  unfold fitField; split <;> assumption

/-- Replacing what does not fit by the greatest value of the width keeps a legal timing legal. -/
theorem mapFields_greatest_legal {w : Nat} {t : BitTiming} (hw : 1 ≤ w) (hl : t.legal = true) :
    (t.mapFields fun _ v => fitField w (BitVec.ofNat 8 (2 ^ w - 1)) v).legal = true := by
  have h2 : 2 ≤ 2 ^ w := by simpa using Nat.pow_le_pow_right (n := 2) (by omega) hw
  have hx : ∀ v : BitVec 8, (fitField w (BitVec.ofNat 8 (2 ^ w - 1)) v).toNat = min v.toNat (2 ^ w - 1) := fun v => by
    unfold fitField
    split
    · omega
    · rw [BitVec.toNat_ofNat, Nat.mod_eq_of_lt] <;> omega
  simp only [BitTiming.legal, BitTiming.mapFields, hx, Bool.and_eq_true, decide_eq_true_eq] at hl ⊢
  omega

/-- Everything writing a timing can leave: `VALID` as written, each field that fits as written, and, of a legal timing, legal
fields within the width. -/
theorem stored_spec {w : Nat} (t : BitTiming) (k : Nat) :
    (t.stored w k).valid = t.valid ∧
    (t.prop.toNat < 2 ^ w → (t.stored w k).prop = t.prop) ∧ (t.ph1.toNat < 2 ^ w → (t.stored w k).ph1 = t.ph1) ∧
    (t.ph2.toNat < 2 ^ w → (t.stored w k).ph2 = t.ph2) ∧ (t.sjw.toNat < 2 ^ w → (t.stored w k).sjw = t.sjw) ∧
    (t.brp.toNat < 2 ^ w → (t.stored w k).brp = t.brp) ∧ (t.stored w k).fits w = true ∧
    (1 ≤ w → t.legal = true → (t.stored w k).legal = true) := by
  have hp : 0 < 2 ^ w := Nat.two_pow_pos w
  have hmap : ∀ x : Nat → BitVec 8, (∀ j, (x j).toNat < 2 ^ w) →
      (t.mapFields fun j v => fitField w (x j) v).fits w = true := fun x hx => by
    simp [BitTiming.fits, BitTiming.mapFields, fitField_lt (hx _)]
  unfold BitTiming.stored
  dsimp only
  split
  · next h =>
    refine ⟨rfl, ?_, ?_, ?_, ?_, ?_, hmap _ fun _ => (Nat.mod_le _ _).trans_lt (Nat.mod_lt _ hp), fun _ _ => h⟩ <;>
      exact fun h => if_pos h
  · refine ⟨rfl, ?_, ?_, ?_, ?_, ?_, hmap (fun _ => _) fun _ => (Nat.mod_le _ _).trans_lt (by omega),
      mapFields_greatest_legal⟩ <;> exact fun h => if_pos h

/-! ### Filling tagged bits -/

/-- Filling the bits of a tag changes values only, and never of a bit with another tag (42_encoder R230). -/
theorem fillTag_frame (t : Tag) (vs : List Level) (bits : List BitRec) :
    (fillTag t vs bits).length = bits.length ∧
      ∀ (i : Nat) (b : BitRec), bits[i]? = some b → ∃ v, (fillTag t vs bits)[i]? = some { b with value := v } ∧ (b.tag ≠ t → v = b.value) := by
  induction bits generalizing vs with
  | nil => cases vs <;> simp [fillTag]
  | cons x xs ih =>
    cases vs with
    | nil => exact ⟨rfl, fun i b h => ⟨b.value, by simpa [fillTag] using h, fun _ => rfl⟩⟩
    | cons v vs =>
      unfold fillTag
      split
      · next hx =>
        refine ⟨by simp [(ih vs).1], fun i b h => ?_⟩
        cases i with
        | zero =>
          obtain rfl : x = b := by simpa using h
          exact ⟨v, by simp, fun hne => absurd hx hne⟩
        | succ i => simpa using (ih vs).2 i b (by simpa using h)
      · refine ⟨by simp [(ih (v :: vs)).1], fun i b h => ?_⟩
        cases i with
        | zero =>
          obtain rfl : x = b := by simpa using h
          exact ⟨x.value, by simp, fun _ => rfl⟩
        | succ i => simpa using (ih (v :: vs)).2 i b (by simpa using h)

/-! ### The data window -/

/-- Different lanes of the data windows are different bytes (20_memory R64). -/
theorem byteIx_inj {w w' : Fin 16} {k k' : Fin 4} (h : byteIx w k = byteIx w' k') : w = w' ∧ k = k' := by
  have := congrArg Fin.val h
  simp only [byteIx] at this
  omega

end Sys2Proof.Laws
end

