-- ==== Sys2Proof/Laws/PerInstr.lean ====
section
/-! SUPPORT. Families of lemmas with one lemma per constructor of `Instr`. -/

namespace Sys2Proof

/-- The opcode number of each command, in the order of the opcode map (30_encoding R93). -/
def Laws.EncodedOpcode.number : Instr → BitVec 6
  | .nop => 0x00
  | .setNbt => 0x01
  | .setDbt => 0x02
  | .setFlags _ => 0x03
  | .setDlc _ => 0x04
  | .setDlen _ => 0x05
  | .setId _ => 0x06
  | .randomize _ => 0x07
  | .frameEq => 0x08
  | .dlcToLen _ => 0x09
  | .lenToDlc _ => 0x0A
  | .build _ _ => 0x10
  | .update _ _ => 0x11
  | .readLen _ => 0x12
  | .readBit _ => 0x13
  | .readTq _ => 0x14
  | .readCycle _ => 0x15
  | .bitCycles _ => 0x16
  | .getBitOf _ _ => 0x17
  | .getBitOfNs _ _ => 0x18
  | .getRandomBitOf _ _ _ => 0x19
  | .getStuffBit _ _ _ => 0x1A
  | .getBitIndex _ => 0x1B
  | .getNumStuff _ _ _ _ => 0x1C
  | .insertBit _ _ _ => 0x20
  | .insertBitCopy _ _ => 0x21
  | .removeBit _ _ _ => 0x22
  | .appendBit _ _ _ => 0x23
  | .appendBf _ _ => 0x24
  | .removeBitsFrom _ => 0x25
  | .turnRx _ => 0x28
  | .insActErr _ => 0x29
  | .insPasErr _ => 0x2A
  | .insOvr _ => 0x2B
  | .looseArb _ => 0x2C
  | .flipBit _ => 0x2D
  | .flipComp _ => 0x2E
  | .appendSuspend _ => 0x2F
  | .lengthen _ _ => 0x30
  | .shorten _ _ => 0x31
  | .forceTq _ _ _ _ => 0x32
  | .forceCycle _ _ _ _ => 0x33
  | .firstTq _ _ => 0x34
  | .lastTq _ _ => 0x35
  | .prevPhase _ _ => 0x36
  | .resync _ => 0x37

/-- The encoded word of a command carries its opcode number in bits 31:26 and 0 in `RSV` (30_encoding R90, R91). -/
def Laws.EncodedOpcode.Statement (i : Instr) : Prop :=
  (encode i).extractLsb' 26 6 = Laws.EncodedOpcode.number i ∧ (encode i).extractLsb' 0 8 = 0

/-- The opcode field of a word is the field it was put together from. -/
theorem Laws.opc_word (c : C32) : c.word.extractLsb' 26 6 = c.opc :=
  congrArg C32.opc (Laws.ofWord_word c)

/-- The reserved field of a word is the field it was put together from. -/
theorem Laws.rsv_word (c : C32) : c.word.extractLsb' 0 8 = c.rsv :=
  congrArg C32.rsv (Laws.ofWord_word c)

@[simp] theorem Laws.opc_withField (c : C32) (t : Tag) : (c.withField t).opc = c.opc := rfl
@[simp] theorem Laws.rsv_withField (c : C32) (t : Tag) : (c.withField t).rsv = c.rsv := rfl
@[simp] theorem Laws.opc_withLevel (c : C32) (v : Level) : (c.withLevel v).opc = c.opc := rfl
@[simp] theorem Laws.rsv_withLevel (c : C32) (v : Level) : (c.withLevel v).rsv = c.rsv := rfl
@[simp] theorem Laws.opc_withFieldOpt (c : C32) (t : Option Tag) : (c.withFieldOpt t).opc = c.opc := by cases t <;> rfl
@[simp] theorem Laws.rsv_withFieldOpt (c : C32) (t : Option Tag) : (c.withFieldOpt t).rsv = c.rsv := by cases t <;> rfl
@[simp] theorem Laws.opc_withFilter (c : C32) (v : Option Level) : (c.withFilter v).opc = c.opc := by cases v <;> rfl
@[simp] theorem Laws.rsv_withFilter (c : C32) (v : Option Level) : (c.withFilter v).rsv = c.rsv := by cases v <;> rfl

/-- The family's statement from the opcode and the reserved field of the command's fields. -/
theorem Laws.EncodedOpcode.of_fields (i : Instr) (ho : i.c32.opc = Laws.EncodedOpcode.number i) (hr : i.c32.rsv = 0) :
    Laws.EncodedOpcode.Statement i :=
  ⟨(Laws.opc_word _).trans ho, (Laws.rsv_word _).trans hr⟩

theorem Laws.EncodedOpcode.nop :
    Laws.EncodedOpcode.Statement .nop :=
  Laws.EncodedOpcode.of_fields _ rfl rfl

theorem Laws.EncodedOpcode.setNbt :
    Laws.EncodedOpcode.Statement .setNbt :=
  Laws.EncodedOpcode.of_fields _ rfl rfl

theorem Laws.EncodedOpcode.setDbt :
    Laws.EncodedOpcode.Statement .setDbt :=
  Laws.EncodedOpcode.of_fields _ rfl rfl

theorem Laws.EncodedOpcode.setFlags (fs : FsIx) :
    Laws.EncodedOpcode.Statement (.setFlags fs) :=
  Laws.EncodedOpcode.of_fields _ rfl rfl

theorem Laws.EncodedOpcode.setDlc (fs : FsIx) :
    Laws.EncodedOpcode.Statement (.setDlc fs) :=
  Laws.EncodedOpcode.of_fields _ rfl rfl

theorem Laws.EncodedOpcode.setDlen (fs : FsIx) :
    Laws.EncodedOpcode.Statement (.setDlen fs) :=
  Laws.EncodedOpcode.of_fields _ rfl rfl

theorem Laws.EncodedOpcode.setId (fs : FsIx) :
    Laws.EncodedOpcode.Statement (.setId fs) :=
  Laws.EncodedOpcode.of_fields _ rfl rfl

theorem Laws.EncodedOpcode.randomize (fs : FsIx) :
    Laws.EncodedOpcode.Statement (.randomize fs) :=
  Laws.EncodedOpcode.of_fields _ rfl rfl

theorem Laws.EncodedOpcode.frameEq :
    Laws.EncodedOpcode.Statement .frameEq :=
  Laws.EncodedOpcode.of_fields _ rfl rfl

theorem Laws.EncodedOpcode.dlcToLen (flag : Bool) :
    Laws.EncodedOpcode.Statement (.dlcToLen flag) :=
  Laws.EncodedOpcode.of_fields _ rfl rfl

theorem Laws.EncodedOpcode.lenToDlc (flag : Bool) :
    Laws.EncodedOpcode.Statement (.lenToDlc flag) :=
  Laws.EncodedOpcode.of_fields _ rfl rfl

theorem Laws.EncodedOpcode.build (bf : BfIx) (fs : FsIx) :
    Laws.EncodedOpcode.Statement (.build bf fs) :=
  Laws.EncodedOpcode.of_fields _ rfl rfl

theorem Laws.EncodedOpcode.update (bf : BfIx) (flag : Bool) :
    Laws.EncodedOpcode.Statement (.update bf flag) :=
  Laws.EncodedOpcode.of_fields _ rfl rfl

theorem Laws.EncodedOpcode.readLen (bf : BfIx) :
    Laws.EncodedOpcode.Statement (.readLen bf) :=
  Laws.EncodedOpcode.of_fields _ rfl rfl

theorem Laws.EncodedOpcode.readBit (bf : BfIx) :
    Laws.EncodedOpcode.Statement (.readBit bf) :=
  Laws.EncodedOpcode.of_fields _ rfl rfl

theorem Laws.EncodedOpcode.readTq (bf : BfIx) :
    Laws.EncodedOpcode.Statement (.readTq bf) :=
  Laws.EncodedOpcode.of_fields _ rfl rfl

theorem Laws.EncodedOpcode.readCycle (bf : BfIx) :
    Laws.EncodedOpcode.Statement (.readCycle bf) :=
  Laws.EncodedOpcode.of_fields _ rfl rfl

theorem Laws.EncodedOpcode.bitCycles (bf : BfIx) :
    Laws.EncodedOpcode.Statement (.bitCycles bf) :=
  Laws.EncodedOpcode.of_fields _ rfl rfl

theorem Laws.EncodedOpcode.getBitOf (bf : BfIx) (field : Tag) :
    Laws.EncodedOpcode.Statement (.getBitOf bf field) :=
  Laws.EncodedOpcode.of_fields _ rfl rfl

theorem Laws.EncodedOpcode.getBitOfNs (bf : BfIx) (field : Tag) :
    Laws.EncodedOpcode.Statement (.getBitOfNs bf field) :=
  Laws.EncodedOpcode.of_fields _ rfl rfl

theorem Laws.EncodedOpcode.getRandomBitOf (bf : BfIx) (field : Tag) (val : Option Level) :
    Laws.EncodedOpcode.Statement (.getRandomBitOf bf field val) :=
  Laws.EncodedOpcode.of_fields _ (Laws.opc_withFilter _ _) (Laws.rsv_withFilter _ _)

theorem Laws.EncodedOpcode.getStuffBit (bf : BfIx) (kind : KindSel) (val : Option Level) :
    Laws.EncodedOpcode.Statement (.getStuffBit bf kind val) :=
  Laws.EncodedOpcode.of_fields _ (Laws.opc_withFilter _ _) (Laws.rsv_withFilter _ _)

theorem Laws.EncodedOpcode.getBitIndex (bf : BfIx) :
    Laws.EncodedOpcode.Statement (.getBitIndex bf) :=
  Laws.EncodedOpcode.of_fields _ rfl rfl

theorem Laws.EncodedOpcode.getNumStuff (bf : BfIx) (kind : KindSel) (field : Option Tag) (val : Option Level) :
    Laws.EncodedOpcode.Statement (.getNumStuff bf kind field val) :=
  Laws.EncodedOpcode.of_fields _ ((Laws.opc_withFilter _ _).trans (Laws.opc_withFieldOpt _ _))
    ((Laws.rsv_withFilter _ _).trans (Laws.rsv_withFieldOpt _ _))

theorem Laws.EncodedOpcode.insertBit (bf : BfIx) (field : Tag) (val : Level) :
    Laws.EncodedOpcode.Statement (.insertBit bf field val) :=
  Laws.EncodedOpcode.of_fields _ rfl rfl

theorem Laws.EncodedOpcode.insertBitCopy (bf bf2 : BfIx) :
    Laws.EncodedOpcode.Statement (.insertBitCopy bf bf2) :=
  Laws.EncodedOpcode.of_fields _ rfl rfl

theorem Laws.EncodedOpcode.removeBit (bf : BfIx) (flag : Bool) (field : Option Tag) :
    Laws.EncodedOpcode.Statement (.removeBit bf flag field) :=
  Laws.EncodedOpcode.of_fields _ (Laws.opc_withFieldOpt _ _) (Laws.rsv_withFieldOpt _ _)

theorem Laws.EncodedOpcode.appendBit (bf : BfIx) (field : Tag) (val : Level) :
    Laws.EncodedOpcode.Statement (.appendBit bf field val) :=
  Laws.EncodedOpcode.of_fields _ rfl rfl

theorem Laws.EncodedOpcode.appendBf (bf bf2 : BfIx) :
    Laws.EncodedOpcode.Statement (.appendBf bf bf2) :=
  Laws.EncodedOpcode.of_fields _ rfl rfl

theorem Laws.EncodedOpcode.removeBitsFrom (bf : BfIx) :
    Laws.EncodedOpcode.Statement (.removeBitsFrom bf) :=
  Laws.EncodedOpcode.of_fields _ rfl rfl

theorem Laws.EncodedOpcode.turnRx (bf : BfIx) :
    Laws.EncodedOpcode.Statement (.turnRx bf) :=
  Laws.EncodedOpcode.of_fields _ rfl rfl

theorem Laws.EncodedOpcode.insActErr (bf : BfIx) :
    Laws.EncodedOpcode.Statement (.insActErr bf) :=
  Laws.EncodedOpcode.of_fields _ rfl rfl

theorem Laws.EncodedOpcode.insPasErr (bf : BfIx) :
    Laws.EncodedOpcode.Statement (.insPasErr bf) :=
  Laws.EncodedOpcode.of_fields _ rfl rfl

theorem Laws.EncodedOpcode.insOvr (bf : BfIx) :
    Laws.EncodedOpcode.Statement (.insOvr bf) :=
  Laws.EncodedOpcode.of_fields _ rfl rfl

theorem Laws.EncodedOpcode.looseArb (bf : BfIx) :
    Laws.EncodedOpcode.Statement (.looseArb bf) :=
  Laws.EncodedOpcode.of_fields _ rfl rfl

theorem Laws.EncodedOpcode.flipBit (bf : BfIx) :
    Laws.EncodedOpcode.Statement (.flipBit bf) :=
  Laws.EncodedOpcode.of_fields _ rfl rfl

theorem Laws.EncodedOpcode.flipComp (bf : BfIx) :
    Laws.EncodedOpcode.Statement (.flipComp bf) :=
  Laws.EncodedOpcode.of_fields _ rfl rfl

theorem Laws.EncodedOpcode.appendSuspend (bf : BfIx) :
    Laws.EncodedOpcode.Statement (.appendSuspend bf) :=
  Laws.EncodedOpcode.of_fields _ rfl rfl

theorem Laws.EncodedOpcode.lengthen (bf : BfIx) (phase : Phase) :
    Laws.EncodedOpcode.Statement (.lengthen bf phase) :=
  Laws.EncodedOpcode.of_fields _ rfl rfl

theorem Laws.EncodedOpcode.shorten (bf : BfIx) (phase : Phase) :
    Laws.EncodedOpcode.Statement (.shorten bf phase) :=
  Laws.EncodedOpcode.of_fields _ rfl rfl

theorem Laws.EncodedOpcode.forceTq (bf : BfIx) (flag : Bool) (phase : Phase) (val : Level) :
    Laws.EncodedOpcode.Statement (.forceTq bf flag phase val) :=
  Laws.EncodedOpcode.of_fields _ rfl rfl

theorem Laws.EncodedOpcode.forceCycle (bf : BfIx) (flag : Bool) (phase : Phase) (val : Level) :
    Laws.EncodedOpcode.Statement (.forceCycle bf flag phase val) :=
  Laws.EncodedOpcode.of_fields _ rfl rfl

theorem Laws.EncodedOpcode.firstTq (bf : BfIx) (phase : Phase) :
    Laws.EncodedOpcode.Statement (.firstTq bf phase) :=
  Laws.EncodedOpcode.of_fields _ rfl rfl

theorem Laws.EncodedOpcode.lastTq (bf : BfIx) (phase : Phase) :
    Laws.EncodedOpcode.Statement (.lastTq bf phase) :=
  Laws.EncodedOpcode.of_fields _ rfl rfl

theorem Laws.EncodedOpcode.prevPhase (bf : BfIx) (phase : Phase) :
    Laws.EncodedOpcode.Statement (.prevPhase bf phase) :=
  Laws.EncodedOpcode.of_fields _ rfl rfl

theorem Laws.EncodedOpcode.resync (bf : BfIx) :
    Laws.EncodedOpcode.Statement (.resync bf) :=
  Laws.EncodedOpcode.of_fields _ rfl rfl

end Sys2Proof
end

