-- ==== Sys2Proof/Tests/Slice0.lean ====
section
/-! SUPPORT. The model's own tests: ill-formed terms, a word of every command decoded, single steps with results from the
spec's vectors or worked out by hand from its rules, and, for every obligation with hypotheses, a theorem `witness_…` with a
state and operands that meet them. -/

namespace Sys2Proof.Tests

open Sys2Proof Sys2Proof.Machine

-- One test at a time: many kernel evaluations side by side need much memory.
set_option Elab.async false

/-! ### WellFormed -/

theorem test_wf_remove_by_field_without_field : (Instr.removeBit 0 true none).wellFormed = false := rfl
theorem test_wf_remove_by_position_with_field : (Instr.removeBit 0 false (some .sof)).wellFormed = false := rfl
theorem test_wf_force_tq_absolute_with_phase : (Instr.forceTq 0 false .ph1 .dominant).wellFormed = false := rfl
theorem test_wf_force_cycle_absolute_with_phase : (Instr.forceCycle 0 false .ph2 .dominant).wellFormed = false := rfl
theorem test_wf_accepts : (Instr.removeBit 0 true (some .sof)).wellFormed = true ∧
    (Instr.forceTq 0 true .ph1 .dominant).wellFormed = true ∧ (Instr.resync 3).wellFormed = true := ⟨rfl, rfl, rfl⟩

/-! ### Decoding: one word of every command, from 30_encoding R90, R93 -/

theorem test_decode_config : decode 0x00000000 = .ok .nop ∧ decode 0x04000000 = .ok .setNbt ∧ decode 0x08000000 = .ok .setDbt ∧
    decode 0x0C200000 = .ok (.setFlags 1) ∧ decode 0x10000000 = .ok (.setDlc 0) ∧ decode 0x14200000 = .ok (.setDlen 1) ∧
    decode 0x18200000 = .ok (.setId 1) ∧ decode 0x1C000000 = .ok (.randomize 0) ∧ decode 0x20000000 = .ok .frameEq ∧
    decode 0x24100000 = .ok (.dlcToLen true) ∧ decode 0x28000000 = .ok (.lenToDlc false) :=
  ⟨rfl, rfl, rfl, rfl, rfl, rfl, rfl, rfl, rfl, rfl, rfl⟩

theorem test_decode_query : decode 0x42200000 = .ok (.build 2 1) ∧ decode 0x45100000 = .ok (.update 1 true) ∧
    decode 0x4B000000 = .ok (.readLen 3) ∧ decode 0x4C000000 = .ok (.readBit 0) ∧ decode 0x51000000 = .ok (.readTq 1) ∧
    decode 0x56000000 = .ok (.readCycle 2) ∧ decode 0x58000000 = .ok (.bitCycles 0) ∧
    decode 0x5D00BC00 = .ok (.getBitOf 1 .crc) ∧ decode 0x6000BC00 = .ok (.getBitOfNs 0 .crc) ∧
    decode 0x640CBC00 = .ok (.getRandomBitOf 0 .crc (some .recessive)) ∧ decode 0x680A0000 = .ok (.getStuffBit 0 .fixed (some .dominant)) ∧
    decode 0x6F000000 = .ok (.getBitIndex 3) ∧ decode 0x7001BC00 = .ok (.getNumStuff 0 .regular (some .crc) none) :=
  ⟨rfl, rfl, rfl, rfl, rfl, rfl, rfl, rfl, rfl, rfl, rfl, rfl, rfl⟩

theorem test_decode_edit : decode 0x8004B000 = .ok (.insertBit 0 .data .recessive) ∧ decode 0x85800000 = .ok (.insertBitCopy 1 2) ∧
    decode 0x89108000 = .ok (.removeBit 1 true (some .sof)) ∧ decode 0x8C04D800 = .ok (.appendBit 0 .idle .recessive) ∧
    decode 0x90800000 = .ok (.appendBf 0 2) ∧ decode 0x97000000 = .ok (.removeBitsFrom 3) ∧ decode 0xA0000000 = .ok (.turnRx 0) ∧
    decode 0xA5000000 = .ok (.insActErr 1) ∧ decode 0xA8000000 = .ok (.insPasErr 0) ∧ decode 0xAD000000 = .ok (.insOvr 1) ∧
    decode 0xB2000000 = .ok (.looseArb 2) ∧ decode 0xB4000000 = .ok (.flipBit 0) ∧ decode 0xBB000000 = .ok (.flipComp 3) ∧
    decode 0xBC000000 = .ok (.appendSuspend 0) :=
  ⟨rfl, rfl, rfl, rfl, rfl, rfl, rfl, rfl, rfl, rfl, rfl, rfl, rfl, rfl⟩

theorem test_decode_timing : decode 0xC0000200 = .ok (.lengthen 0 .ph1) ∧ decode 0xC5000300 = .ok (.shorten 1 .ph2) ∧
    decode 0xC8140200 = .ok (.forceTq 0 true .ph1 .recessive) ∧ decode 0xCE000000 = .ok (.forceCycle 2 false .sync .dominant) ∧
    decode 0xD0000300 = .ok (.firstTq 0 .ph2) ∧ decode 0xD4000100 = .ok (.lastTq 0 .prop) ∧
    decode 0xD8000000 = .ok (.prevPhase 0 .sync) ∧ decode 0xDF000000 = .ok (.resync 3) :=
  ⟨rfl, rfl, rfl, rfl, rfl, rfl, rfl, rfl⟩

theorem test_decode_refuses : decode 0x2C000000 = .error .reservedOpcode ∧ decode 0xFC000000 = .error .reservedOpcode ∧
    decode 0x00000001 = .error .unusedNonZero ∧ decode 0x88000400 = .error .fieldWithoutFsel ∧
    decode 0x5C000000 = .error .fieldMissing ∧ decode 0x64043C00 = .error .fieldMissing ∧
    decode 0x64048000 = .error .valWithoutVsel ∧ decode 0x5C00F000 = .error .reservedTag ∧ decode 0x68030000 = .error .reservedKind :=
  ⟨rfl, rfl, rfl, rfl, rfl, rfl, rfl, rfl, rfl⟩

theorem test_table_word : decodeTableWord 32 0x5D00BC00 = some (.getBitOf 1 .crc) ∧ decodeTableWord 32 0x2C000000 = none := ⟨rfl, rfl⟩

/-! ### Small states -/

/-- The state a step answers. -/
def after (o : Host.Outcome State Fault Refusal) : Option State :=
  match o with
  | .next t => some t
  | .fault _ => none
  | .refused _ => none

/-- RESULT0, RESULT1 and `ECODE` after a command. -/
def results (i : Instr) (s : State) : Option (Word × Word × BitVec 8) :=
  (after (exec i s)).map fun t => (t.result0, t.result1, t.status.ecode)

/-- The tags, values and stuff kinds of slot 0 after a command, with `ECODE`. -/
def bitsAfter (i : Instr) (s : State) : Option (List (Tag × Level × StuffKind) × BitVec 8) :=
  (after (exec i s)).map fun t => ((t.slot 0).bits.map fun b => (b.tag, b.value, b.stuff), t.status.ecode)

/-- The phases and lengths of the quanta of bit 0 of slot 0 after a command, with `ECODE`. -/
def tqsAfter (i : Instr) (s : State) : Option (List (Phase × Nat × Option Level × List (Option Level)) × BitVec 8) :=
  (after (exec i s)).map fun t =>
    ((((t.slot 0).bits[0]?).map BitRec.tqs).getD [] |>.map fun q => (q.phase, q.len, q.tqf, q.cyc), t.status.ecode)

/-- The state after reset with all data bytes 0, for tests that compare whole fields. -/
def base : State :=
  { State.reset with frames := Vector.replicate 2 { Frame.reset Config.Params.standard 0 with data := Vector.replicate 64 0 } }

/-- A nominal timing: prop 1, ph1 2, ph2 1, sjw 1, brp 2. -/
def nbt : BitTiming := { prop := 1, ph1 := 2, ph2 := 1, sjw := 1, brp := 2, valid := true }

/-- A data timing: prop 0, ph1 1, ph2 1, sjw 1, brp 1. -/
def dbt : BitTiming := { prop := 0, ph1 := 1, ph2 := 1, sjw := 1, brp := 1, valid := true }

/-- A Classical snapshot. -/
def classical : Snap := { Snap.reset with nbt := nbt }

/-- An FD snapshot with a bit-rate shift. -/
def fd : Snap := { Snap.reset with flags := ⟨true, false, false, true, false⟩, nbt := nbt, dbt := dbt }

/-- Slot 0 built and holding four bits: SOF, an identifier bit, a regular stuff bit and an ACK bit. -/
def four : List BitRec :=
  [newBit classical .sof .dominant, newBit classical .baseIdentifier .dominant,
    { newBit classical .baseIdentifier .recessive with stuff := .regular }, newBit classical .ack .recessive]

/-- Slot 0 with the four bits, ARG0, ARG1 and ARG2 as given, and slot 1 built and empty. -/
def demo (a0 a1 a2 : Word) : State :=
  ({ base with arg0 := a0, arg1 := a1, arg2 := a2, nbt := nbt }.setSlot 0 ⟨true, classical, four⟩).setSlot 1 ⟨true, classical, []⟩

/-- Slot 0 built for FD with a bit-rate shift, holding one BRS bit. -/
def demoFd (a0 a1 : Word) : State :=
  { base with arg0 := a0, arg1 := a1 }.setSlot 0 ⟨true, fd, [newBit fd .brs .recessive]⟩

/-- Slot 0 filled up with 4096 bits without quanta. -/
def full : State :=
  base.setSlot 0 ⟨true, classical, List.replicate 4096 { newBit classical .idle .recessive with tqs := [] }⟩

/-! ### Single steps -/

/-- 95_test_vectors V-SRC-5. -/
theorem test_set_nbt : ((after (exec .setNbt { base with arg0 := 0x01030202, arg1 := 1 })).map State.nbt) =
      some { prop := 2, ph1 := 2, ph2 := 3, sjw := 1, brp := 1, valid := true } ∧
    results .setNbt { base with arg0 := 0x04030202, arg1 := 1 } = some (0, 0, 0x03) := by decide +kernel

theorem test_set_dbt : results .setDbt { base with arg0 := 0x01030202, arg1 := 256 } = some (0, 0, 0x04) ∧
    ((after (exec .setDbt { base with arg0 := 0x05050202, arg1 := 255 })).map fun t => t.dbt.brp) = some 255 := by
  decide +kernel

/-- 95_test_vectors V-SRC-11: 0x0D stores 0x09 and warns `W_RTR_FD`; 0x18 stores 0 and warns twice. -/
theorem test_set_flags :
    ((after (exec (.setFlags 0) { base with arg0 := 0x0D })).map fun t => ((t.frame 0).flags.word, t.status.word)) =
      some (0x09, 0x04) ∧
    ((after (exec (.setFlags 0) { base with arg0 := 0x18 })).map fun t => ((t.frame 0).flags.word, t.status.word)) =
      some (0x00, 0x18) := by decide +kernel

/-- 95_test_vectors V-CFG-3 to V-CFG-6. -/
theorem test_set_dlc :
    ((after (exec (.setDlc 0) { base with arg0 := 9 })).map fun t => ((t.frame 0).dlc, (t.frame 0).dlen)) = some (9, 8) ∧
    results (.setDlc 0) { base with arg0 := 16 } = some (0, 0, 0x05) := by decide +kernel

/-- 95_test_vectors V-CFG-9, V-CFG-10. -/
theorem test_set_dlen :
    ((after (exec (.setDlen 1) { base with arg0 := 8 })).map fun t => ((t.frame 1).dlc, (t.frame 1).dlen)) = some (8, 8) ∧
    results (.setDlen 1) { base with arg0 := 9 } = some (0, 0, 0x06) := by decide +kernel

/-- 95_test_vectors V-SRC-6. -/
theorem test_set_id :
    ((after (exec (.setId 0) { base with arg0 := 0x7FF })).map fun t => (t.frame 0).id) = some 0x7FF ∧
    results (.setId 0) { base with arg0 := 0x800 } = some (0, 0, 0x07) := by decide +kernel

/-- 95_test_vectors V-CFG-19: with no mark nothing changes. -/
theorem test_randomize : after (exec (.randomize 0) base) = some base := by decide +kernel

/-- 95_test_vectors V-CFG-16, V-CFG-17. -/
theorem test_frame_eq : results .frameEq base = some (1, 0, 0) ∧
    results .frameEq (base.setFrame 1 { base.frame 1 with id := 0x123 }) = some (0, 0, 0) := by decide +kernel

/-- 95_test_vectors V-CFG-11, V-CFG-12. -/
theorem test_dlc_to_len : results (.dlcToLen true) { base with arg0 := 13 } = some (32, 0, 0) ∧
    results (.dlcToLen false) { base with arg0 := 15 } = some (8, 0, 0) := by decide +kernel

/-- 95_test_vectors V-CFG-13, V-CFG-14. -/
theorem test_len_to_dlc : results (.lenToDlc true) { base with arg0 := 48 } = some (14, 0, 0) ∧
    results (.lenToDlc false) { base with arg0 := 12 } = some (0, 0, 0x06) := by decide +kernel

/-- 95_test_vectors V-ENC-1: the frame with identifier 0 and DLC 0 has 53 bits on this wire. -/
theorem test_build_classical :
    ((after (exec (.build 0 0) { base with nbt := nbt })).map fun t => (t.slot 0).bits.map fun b => b.value.bit.toNat) =
      some [0,0,0,0,0,1,0,0,0,0,0,1,0,0,0,0,0,1,0,0,0,0,0,1,0,0,0,0,0,1,0,0,0,0,0,1,0,0,0,0,1,0,1,1,1,1,1,1,1,1,1,1,1] := by
  decide +kernel

/-- 95_test_vectors V-ENC-5: an FD frame whose data ends in a run of five. -/
theorem test_build_fd :
    ((after (exec (.build 0 0) ({ base with nbt := nbt }.setFrame 0 { base.frame 0 with
        flags := ⟨true, false, false, false, false⟩, dlc := 1, dlen := 1, data := (Vector.replicate 64 0).set 0 0x1F }))).map
      fun t => (t.slot 0).bits.map fun b => b.value.bit.toNat) =
      some [0,0,0,0,0,1,0,0,0,0,0,1,0,0,0,0,1,0,0,0,0,0,1,0,1,0,0,0,1,1,1,1,1,0,0,1,0,1,0,0,1,0,0,1,0,0,0,0,1,0,1,1,0,1,1,0,
        0,0,1,1,1,0,1,1,1,1,1,1,1,1,1,1,1] := by decide +kernel

/-- 42_encoder R230, by hand: the stuff bit has no run before it and is dropped, the rest from `Ack` on is kept. -/
theorem test_update : bitsAfter (.update 0 false) (demo 0 0 0) =
    some ([(.sof, .dominant, .none), (.baseIdentifier, .dominant, .none), (.ack, .recessive, .none)], 0) := by decide +kernel

theorem test_read_len : results (.readLen 0) (demo 0 0 0) = some (4, 0, 0) := by decide +kernel

/-- 30_encoding R99: tag 1, value 1 at bit 5, stuff 1 at bits 7:6; counts 1, 1, 2, 1. -/
theorem test_read_bit : results (.readBit 0) (demo 2 0 0) = some (0x61, 0x01020101, 0) ∧
    results (.readBit 0) (demo 4 0 0) = some (0, 0, 0x0A) := by decide +kernel

/-- TQ 4 of bit 2 is Ph2 (code 3), 2 cycles long, effective value Recessive (bit 4), from cycle 8 on. -/
theorem test_read_tq : results (.readTq 0) (demo 2 4 0) = some (0x00020013, 8, 0) ∧
    results (.readTq 0) (demo 2 5 0) = some (0, 0, 0x0A) := by decide +kernel

theorem test_read_cycle : results (.readCycle 0) (demo 2 0 1) = some (1, 0, 0) ∧
    results (.readCycle 0) (demo 2 0 2) = some (0, 0, 0x0A) := by decide +kernel

/-- Nominal: 5 quanta of 2 cycles; the BRS bit: 4 nominal quanta of 2 cycles and 1 data quantum of 1 (41_bit_timing R172). -/
theorem test_bit_cycles : results (.bitCycles 0) (demo 0 0 0) = some (10, 0, 0) ∧
    results (.bitCycles 0) (demoFd 0 0) = some (9, 0, 0) := by decide +kernel

theorem test_get_bit_of : results (.getBitOf 0 .baseIdentifier) (demo 1 0 0) = some (2, 0, 0) ∧
    results (.getBitOf 0 .baseIdentifier) (demo 2 0 0) = some (0, 0, 0x0B) := by decide +kernel

theorem test_get_bit_of_ns : results (.getBitOfNs 0 .baseIdentifier) (demo 0 0 0) = some (1, 0, 0) ∧
    results (.getBitOfNs 0 .baseIdentifier) (demo 1 0 0) = some (0, 0, 0x0B) := by decide +kernel

theorem test_get_random_bit_of : results (.getRandomBitOf 0 .baseIdentifier (some .recessive)) (demo 0 0 0) = some (0, 0, 0x0B) := by
  decide +kernel

theorem test_get_stuff_bit : results (.getStuffBit 0 .any none) (demo 0 0 0) = some (2, 0, 0) ∧
    results (.getStuffBit 0 .fixed none) (demo 0 0 0) = some (0, 0, 0x0B) := by decide +kernel

theorem test_get_bit_index : results (.getBitIndex 0) (demo 3 0 0) = some (3, 0, 0) ∧
    results (.getBitIndex 0) (demo 4 0 0) = some (0, 0, 0x0A) := by decide +kernel

theorem test_get_num_stuff : results (.getNumStuff 0 .regular (some .baseIdentifier) (some .recessive)) (demo 0 0 0) = some (1, 0, 0) ∧
    results (.getNumStuff 0 .any (some .sof) none) (demo 0 0 0) = some (0, 0, 0) := by decide +kernel


theorem test_insert_bit : bitsAfter (.insertBit 0 .data .dominant) (demo 4 0 0) =
      some ([(.sof, .dominant, .none), (.baseIdentifier, .dominant, .none), (.baseIdentifier, .recessive, .regular),
        (.ack, .recessive, .none), (.data, .dominant, .none)], 0) ∧
    results (.insertBit 0 .data .dominant) (demo 5 0 0) = some (0, 0, 0x0A) := by decide +kernel

/-- 44_structural R291: source and target may be one slot; the copy keeps its stuff kind. -/
theorem test_insert_bit_copy : bitsAfter (.insertBitCopy 0 0) (demo 0 2 0) =
      some ([(.baseIdentifier, .recessive, .regular), (.sof, .dominant, .none), (.baseIdentifier, .dominant, .none),
        (.baseIdentifier, .recessive, .regular), (.ack, .recessive, .none)], 0) ∧
    results (.insertBitCopy 0 1) (demo 0 0 0) = some (0, 0, 0x0A) := by decide +kernel

theorem test_remove_bit : bitsAfter (.removeBit 0 true (some .baseIdentifier)) (demo 1 0 0) =
      some ([(.sof, .dominant, .none), (.baseIdentifier, .dominant, .none), (.ack, .recessive, .none)], 0) ∧
    results (.removeBit 0 false (some .sof)) (demo 0 0 0) = some (0, 0, 0x02) := by decide +kernel

theorem test_append_bit : ((after (exec (.appendBit 0 .idle .recessive) (demo 0 0 0))).map fun t => (t.slot 0).bits.drop 4) =
      some [newBit classical .idle .recessive] ∧
    results (.appendBit 0 .idle .recessive) full = some (0, 0, 0x0D) := by decide +kernel

theorem test_append_bf : ((after (exec (.appendBf 0 0) (demo 0 0 0))).map fun t => (t.slot 0).bits) = some (four ++ four) ∧
    results (.appendBf 0 2) (demo 0 0 0) = some (0, 0, 0x09) := by decide +kernel

theorem test_remove_bits_from :
    ((after (exec (.removeBitsFrom 0) (demo 0 0 0))).map fun t => ((t.slot 0).bits, (t.slot 0).valid)) = some ([], true) ∧
    results (.removeBitsFrom 0) (demo 5 0 0) = some (0, 0, 0x0A) := by decide +kernel

theorem test_turn_rx : bitsAfter (.turnRx 0) (demo 0 0 0) =
    some ([(.sof, .recessive, .none), (.baseIdentifier, .recessive, .none), (.baseIdentifier, .recessive, .regular),
      (.ack, .dominant, .none)], 0) := by decide +kernel

theorem test_loose_arb : bitsAfter (.looseArb 0) (demo 1 0 0) =
      some ([(.sof, .dominant, .none), (.baseIdentifier, .recessive, .none), (.baseIdentifier, .recessive, .regular),
        (.ack, .dominant, .none)], 0) ∧
    results (.looseArb 0) (demo 4 0 0) = some (0, 0, 0x0A) := by decide +kernel

/-- 45_protocol_faults R319 at position 1. -/
theorem test_ins_act_err : bitsAfter (.insActErr 0) (demo 1 0 0) =
    some ((.sof, .dominant, .none) :: (List.replicate 6 (.activeErrorFlag, .dominant, .none)
      ++ List.replicate 8 (.errorDelimiter, .recessive, .none) ++ List.replicate 3 (.intermission, .recessive, .none)), 0) := by
  decide +kernel

theorem test_ins_pas_err : ((bitsAfter (.insPasErr 0) (demo 4 0 0)).map fun r => (r.1.length, r.1[4]?, r.1[10]?)) =
      some (21, some (.passiveErrorFlag, .recessive, .none), some (.errorDelimiter, .recessive, .none)) ∧
    results (.insPasErr 0) (demo 5 0 0) = some (0, 0, 0x0A) := ⟨rfl, rfl⟩

theorem test_ins_ovr : ((bitsAfter (.insOvr 0) (demo 0 0 0)).map fun r => (r.1.length, r.1[0]?, r.1[6]?, r.1[16]?)) =
    some (17, some (.overloadFlag, .dominant, .none), some (.overloadDelimiter, .recessive, .none),
      some (.intermission, .recessive, .none)) := rfl

theorem test_flip_bit : ((bitsAfter (.flipBit 0) (demo 3 0 0)).map fun r => r.1[3]?) = some (some (.ack, .dominant, .none)) ∧
    results (.flipBit 0) (demo 4 0 0) = some (0, 0, 0x0A) := by decide +kernel

/-- 45_protocol_faults R317: two more cycles in the last Ph2 quantum; 65534 would make it 65536 cycles long. -/
theorem test_flip_comp : ((tqsAfter (.flipComp 0) (demo 0 2 0)).map fun r => r.1[4]?) =
      some (some (.ph2, 4, none, [none, none, none, none])) ∧
    results (.flipComp 0) (demo 0 65534 0) = some (0, 0, 0x0D) := ⟨rfl, rfl⟩

theorem test_append_suspend : ((bitsAfter (.appendSuspend 0) (demo 0 0 0)).map fun r => r.1.drop 4) =
    some (List.replicate 8 (.suspend, .recessive, .none)) := by decide +kernel

/-- 41_bit_timing R180: the Ph2 quantum added to the FD BRS bit has the data prescaler, 1 cycle. -/
theorem test_lengthen : ((tqsAfter (.lengthen 0 .ph2) (demoFd 0 1)).map fun r => r.1.map fun q => (q.1, q.2.1)) =
      some [(.sync, 2), (.prop, 2), (.ph1, 2), (.ph1, 2), (.ph2, 1), (.ph2, 1)] ∧
    results (.lengthen 0 .ph1) (demo 0 254 0) = some (0, 0, 0x0D) := by decide +kernel

theorem test_shorten : ((tqsAfter (.shorten 0 .ph1) (demo 0 2 0)).map fun r => r.1.map fun q => q.1) =
      some [.sync, .prop, .ph2] ∧
    results (.shorten 0 .ph1) (demo 0 3 0) = some (0, 0, 0x0C) := by decide +kernel

theorem test_force_tq : ((tqsAfter (.forceTq 0 true .ph1 .recessive) (demo 0 1 0)).map fun r => r.1[3]?) =
      some (some (.ph1, 2, some .recessive, [none, none])) ∧
    results (.forceTq 0 false .ph1 .recessive) (demo 0 0 0) = some (0, 0, 0x02) := ⟨rfl, rfl⟩

theorem test_force_cycle : ((tqsAfter (.forceCycle 0 false .sync .recessive) (demo 0 4 1)).map fun r => r.1[4]?) =
      some (some (.ph2, 2, none, [none, some .recessive])) ∧
    results (.forceCycle 0 true .ph2 .recessive) (demo 0 0 2) = some (0, 0, 0x0A) := ⟨rfl, rfl⟩

theorem test_first_tq : results (.firstTq 0 .ph1) (demo 0 0 0) = some (2, 0, 0) := by decide +kernel

theorem test_last_tq : results (.lastTq 0 .ph1) (demo 0 0 0) = some (3, 0, 0) := by decide +kernel

theorem test_prev_phase : results (.prevPhase 0 .ph2) (demo 0 0 0) = some (2, 0, 0) ∧
    results (.prevPhase 0 .sync) (demo 0 0 0) = some (0, 0, 0x0B) := by decide +kernel

/-- 41_bit_timing R188: an error of 3 is bounded by SJW 1; an error of -2^31 too. -/
theorem test_resync : results (.resync 0) (demo 0 3 0) = some (1, 0, 0) ∧
    ((tqsAfter (.resync 0) (demo 0 0x80000000 0)).map fun r => r.1.map fun q => q.1) = some [.sync, .prop, .ph1, .ph1] := by
  decide +kernel

/-- A dropped command, the recovery, and the data window's byte order (60_exceptions R342, R347, 20_memory R64). -/
theorem test_host_accesses :
    ((after (step { base with pending := [cmdWrite 0x2C000000] })).map fun t => t.status.word) = some 0x0101 ∧
    ((after (runWord 0 (base.failed 0x01))).map fun t => t.status.word) = some 0x0103 ∧
    ((after (writeAt 0x008 1 ((base.failed 0x01)))).map fun t => t.status.word) = some 0 ∧
    ((after (writeAt 0x140 0x00003412 base)).map fun t => ((t.frame 0).data[0], (t.frame 0).data[1])) = some (0x12, 0x34) := by
  decide +kernel

theorem test_fetch_word : (after (step (State.reset.withFetchWord 32 0x20000000))).map (fun t => t.status.word) = some 0 := by
  decide +kernel

/-- `base` in a block with fewer slots, 2-bit timing fields and small capacities. -/
def small : State :=
  { base with params := ⟨2, 1, 4, 2, 2, 64, 2⟩ }

/-- The parameters are an argument (00_scope R8): CAPS shows them (10_state R27), a slot the block does not have is not listed
and a command on it is refused; a timing too wide for 2-bit fields is stored, or fails by its own checks first. -/
theorem test_params_slots : readAt small 0x00C = 0x00040102 ∧ (readAt small 0x190, (after (writeAt 0x190 7 small))) = (0, some small) ∧
    (runWord 0x4A000000 small matches .refused .absentSlot) = true ∧
    (runWord 0x20000000 small matches .refused .absentSlot) = true ∧
    ((after (runWord 0x04000000 { small with arg0 := 0x00000400, arg1 := 1 })).map fun t => t.status.ecode) = some 0 ∧
    ((after (runWord 0x04000000 { small with arg0 := 0x04000000, arg1 := 0 })).map fun t => t.status.ecode) = some 0x03 ∧
    ((after (runWord 0x04000000 { small with arg0 := 0x00000400, arg1 := 0 })).map fun t => t.status.ecode) = some 0x04 ∧
    ((after (runWord 0x04000000 { small with arg0 := 0x00030303, arg1 := 3 })).map fun t => t.nbt.brp) = some 3 ∧
    ((after (runWord 0x49000000 small)).map fun t => t.status.ecode) = some 0x09 := by decide +kernel

/-- The capacities are an argument (20_memory R67): a fifth bit, a third Ph1 quantum, a fresh quantum of 3 cycles. -/
theorem test_params_capacity :
    results (.appendBit 0 .idle .recessive) (small.setSlot 0 ⟨true, classical, four⟩) = some (0, 0, 0x0D) ∧
    results (.lengthen 0 .ph1) ({ small with arg1 := 1 }.setSlot 0 ⟨true, classical, four⟩) = some (0, 0, 0x0D) ∧
    results (.lengthen 0 .prop) ({ small with arg1 := 1 }.setSlot 0 ⟨true, classical, four⟩) = some (0, 0, 0) ∧
    results (.appendBit 0 .idle .recessive) (small.setSlot 0 ⟨true, { classical with nbt := { nbt with brp := 3 } }, []⟩) =
      some (0, 0, 0x0D) ∧
    results (.flipComp 0) ({ small with arg1 := 1 }.setSlot 0 ⟨true, classical, four⟩) = some (0, 0, 0x0D) := by decide +kernel

theorem test_not_admitted : step { base with pending := [.read 0x006 4] } = .fault (.notAdmitted 0x006 4) ∧
    step { base with pending := [.read 0x004 2] } = .fault (.notAdmitted 0x004 2) := ⟨rfl, rfl⟩

/-! ### Witnesses: states and operands that meet the hypotheses of the obligations, clause by clause -/

/-- `base` with a nominal timing and frame slot 0 holding `fr`. -/
def withFrame (fr : Frame) : State := { base with nbt := nbt }.setFrame 0 fr

/-- An FD frame without a bit-rate shift, DLC 0. -/
def fdFrame : Frame := { base.frame 0 with flags := ⟨true, false, false, false, false⟩ }

/-- Slot 0 of an FD frame holding one `Data` bit, which has no Prop quantum. -/
def noProp (a0 : Word) : State := { base with arg0 := a0 }.setSlot 0 ⟨true, fd, [newBit fd .data .dominant]⟩

/-- Slot 0 holding one bit without quanta. -/
def noQuanta : State := base.setSlot 0 ⟨true, classical, [{ newBit classical .idle .recessive with tqs := [] }]⟩

/-- Slot 0 holding 16 CRC bits, one more than a Classical frame has. -/
def sixteenCrc : State := base.setSlot 0 ⟨true, classical, List.replicate 16 (newBit classical .crc .dominant)⟩

theorem witness_EncodeOfDecode : decode 0x5D00BC00 = .ok (.getBitOf 1 .crc) := rfl

/-- Words with a known opcode: three with a bit outside their row, four with an operand that is not legal. -/
theorem witness_IllegalOperandsRaiseArg : base.status.err = false ∧
    (∀ w ∈ [0x00000001#32, 0x03000000#32, 0x5C000000#32], (w.extractLsb' 26 6).toNat ∉ reservedOpcodes ∧
      ¬(inTable w ∧ legalOperands w)) ∧
    ∀ w ∈ [0x5C00F000#32, 0x68030000#32, 0x68040000#32, 0x70000400#32],
      (w.extractLsb' 26 6).toNat ∉ reservedOpcodes ∧ ¬(inTable w ∧ legalOperands w) := by
  have ht : ∀ w : Word, (tableRows.all fun r => w &&& r.2 != r.1) = true → ¬inTable w := fun w h ⟨r, hr, he⟩ => by
    have := List.all_eq_true.mp h r hr
    simp [he] at this
  refine ⟨rfl, ?_, ?_⟩
  · intro w hw
    simp only [List.mem_cons, List.not_mem_nil, or_false] at hw
    rcases hw with rfl | rfl | rfl <;> exact ⟨by decide, fun c => ht _ (by decide +kernel) c.1⟩
  · intro w hw
    simp only [List.mem_cons, List.not_mem_nil, or_false] at hw
    rcases hw with rfl | rfl | rfl | rfl
    · exact ⟨by decide, fun c => absurd (c.2.2.1 rfl) (by decide)⟩
    · exact ⟨by decide, fun c => c.2.2.2.1 rfl⟩
    · exact ⟨by decide, fun c => absurd (c.2.2.2.2 (by decide) rfl) (by decide)⟩
    · exact ⟨by decide, fun c => absurd (c.2.1 rfl) (by decide)⟩

theorem witness_ReservedOpcodesAndNop : base.status.err = false ∧
    ((0x2FFFFFFF : Word).extractLsb' 26 6).toNat ∈ reservedOpcodes ∧
    ((0xFC000000 : Word).extractLsb' 26 6).toNat ∈ reservedOpcodes ∧
    (0x03FFFFFF : Word).extractLsb' 26 6 = 0 ∧ (0x03FFFFFF : Word) ≠ 0 ∧ (0x00000001 : Word).extractLsb' 26 6 = 0 := by
  decide +kernel

theorem witness_standard : Config.Params.standard.Covers ∧ Config.Params.standard.Roomy ∧ Config.Params.standard.Legal :=
  ⟨by simp only [Config.Params.Covers]; decide, by simp only [Config.Params.Roomy]; decide,
    ⟨by decide, by decide, by decide, by decide, by decide, by decide, by decide⟩⟩

/-- Parameters with fewer slots, smaller capacities and narrower timing fields are legal too. -/
theorem witness_legal : small.params.Legal :=
  ⟨by decide, by decide, by decide, by decide, by decide, by decide, by decide⟩

theorem witness_StepRunsWrittenCommand :
    { base with pending := [cmdWrite 0x20000000] }.pending = [cmdWrite 0x20000000] ∧ decode 0x20000000 = .ok .frameEq ∧
    slotsExist base.params 0x20000000 .frameEq = true ∧ base.params.Covers ∧ decode 0x2C000000 = .error .reservedOpcode ∧
    small.status.err = false ∧ slotsExist small.params 0x20000000 .frameEq = false :=
  ⟨rfl, rfl, by decide +kernel, witness_standard.1, rfl, rfl, by decide +kernel⟩

theorem witness_DroppedWhileErr : (base.failed 0x01).status.err = true ∧ (0xFFC : Addr).toNat % 4 = 0 ∧
    (1 : FsIx).val < (base.failed 0x01).params.frameSlots := ⟨rfl, rfl, by decide⟩

/-- The last slots the block has: of `ReadsFollowTheMap`, and of `DataWindow`. -/
theorem witness_ReadsFollowTheMap : base.params = Config.Params.standard ∧ (3 : BfIx).val < base.params.bfSlots ∧
    (1 : FsIx).val < base.params.frameSlots := ⟨rfl, by decide, by decide⟩

theorem witness_DataWindow : (1 : FsIx).val < base.params.frameSlots := by decide

theorem witness_NewBitFollowsTiming : Config.Params.standard.Roomy := witness_standard.2.1

theorem witness_FailingCommandIsPrecise : base.status.err = false ∧ runWord 0x00000001 base = .next (base.failed 0x02) ∧
    (base.failed 0x02).status.err = true := ⟨rfl, rfl, rfl⟩

theorem witness_UnbuiltSlotRaisesSlot : base.status.err = false ∧ 0 ∈ (Instr.readLen 0).touches.checks ∧
    (base.slot 0).valid = false ∧ (demo 0 0 0).status.err = false ∧ 3 ∈ (Instr.appendBf 0 3).touches.checks ∧
    ((demo 0 0 0).slot 3).valid = false := by decide +kernel

/-- The clause for a bit index at the end of the slot, of this statement and of `LengthenShortenResults`, `ForceResults`,
`NavigationResults`, `ResyncResult` and `FlipResults`. -/
theorem witness_BitBeyondEndRaisesRange : (Instr.readBit 0).touches.bitAt = some 0 ∧
    (Instr.removeBit 0 false none).touches.bitAt = some 0 ∧ (demo 4 0 0).ready 0 ∧
    ((demo 4 0 0).slot 0).bits.length ≤ (demo 4 0 0).arg0.toNat := ⟨rfl, rfl, ⟨rfl, rfl⟩, by decide +kernel⟩

theorem witness_FrameOfEveryCommand : exec .nop base = .next base ∧ (∀ fs, Instr.nop.touches.frame ≠ some fs) ∧
    (∀ bf, Instr.nop.touches.edits ≠ some bf) := ⟨rfl, fun _ h => (nomatch h), fun _ h => (nomatch h)⟩

theorem witness_IdleReadAndResetSteps : base.pending = [] ∧ { base with pending := [.read 0xFFC 4] }.pending = .read 0xFFC 4 :: [] ∧
    (0xFFC : Addr).toNat % 4 = 0 ∧ { base with pending := [.reset] }.pending = .reset :: [] := ⟨rfl, rfl, rfl, rfl⟩

theorem witness_AccessAdmittedIffAlignedWord :
    { base with pending := [.read 0xFFC 4] }.pending = [.read 0xFFC 4] ∧ (4 = 4 ∧ 4 ∣ (0xFFC : Addr).toNat) ∧
    { base with pending := [.write 0x002 4 0] }.pending = [.write 0x002 4 0] ∧ ¬(4 = 4 ∧ 4 ∣ (0x002 : Addr).toNat) ∧
    { base with pending := [.read 0x000 8] }.pending = [.read 0x000 8] ∧ ¬(8 = 4 ∧ 4 ∣ (0x000 : Addr).toNat) ∧
    (0xFFC : Addr) ≠ 0x000 ∧ base.params.Covers := by
  refine ⟨rfl, by decide, rfl, by decide, rfl, by decide, by decide, witness_standard.1⟩

theorem witness_UnlistedReadOnlyReserved : ∀ n ∈ [0x028, 0x02C, 0x050, 0x0FC, 0x114, 0x13C, 0x194, 0x200, 0xFFC],
    (BitVec.ofNat 12 n).toNat ∉ listedOffsets base.params := by decide +kernel

theorem witness_ArgumentRegisters : runWord 0 base = .next base := rfl

theorem witness_ResultRegisters : runWord 0x00000001 base = .next (base.failed 0x02) ∧ (base.failed 0x02).status.err = true ∧
    exec .nop base = .next base ∧ Instr.nop.touches.result0 = false ∧ Instr.nop.touches.result1 = false :=
  ⟨rfl, rfl, rfl, rfl, rfl⟩

theorem witness_ResetValues : { base with pending := [.reset] }.pending = .reset :: [] := rfl

/-- A state with a built slot that meets the invariant, and its step. -/
theorem witness_StepKeepsInvariant : (demo 0 0 0).Inv ∧ step (demo 0 0 0) = .next (demo 0 0 0) := by
  have hn : nbt.Wf base.params := by simp only [BitTiming.Wf]; decide +kernel
  have hr : BitTiming.reset.Wf base.params := by simp only [BitTiming.Wf]; decide +kernel
  have hs : classical.Wf base.params :=
    ⟨⟨fun h => (nomatch h), fun _ => ⟨rfl, rfl⟩⟩, rfl, fun _ => by decide +kernel, ⟨rfl, hn⟩, ⟨fun h => (nomatch h), hr⟩⟩
  have hb : ∀ b ∈ four, b.Wf base.params := by
    have : ∀ b ∈ four, phasesOrdered b.tqs ∧ (∀ p ∈ [Phase.sync, .prop, .ph1, .ph2], b.count p ≤ base.params.maxTqPerPhase) ∧
        (∀ q ∈ b.tqs, q.Wf base.params) ∧ (b.fsp = true → b.stuff = .fixed) := by
      simp only [phasesOrdered, Tq.Wf]; decide +kernel
    intro b h
    obtain ⟨h1, h2, h3, h4⟩ := this b h
    exact ⟨h1, fun p => h2 p (by cases p <;> decide), h3, h4⟩
  refine ⟨⟨witness_standard.2.2, by simp only [Status.Wf]; decide +kernel, hn, hr, fun fs => ⟨?_, ?_⟩, fun bf => ?_⟩, rfl⟩
  · have : ∀ fs : FsIx, ((demo 0 0 0).frame fs).flags = FrameFlags.reset ∧ ((demo 0 0 0).frame fs).dlen = 0 ∧
      ((demo 0 0 0).frame fs).dlc = 0 := by decide +kernel
    obtain ⟨h1, h2, h3⟩ := this fs
    simp only [Frame.Wf, h1, h2, h3]
    exact ⟨⟨fun h => (nomatch h), fun _ => ⟨rfl, rfl⟩⟩, rfl⟩
  · revert fs; decide +kernel
  · match bf with
    | 0 => exact ⟨hs, by decide, hb⟩
    | 1 => exact ⟨hs, by decide, fun b h => (nomatch h)⟩
    | 2 => rfl
    | 3 => rfl

theorem witness_ResetMeetsInvariant : small.params.Legal := witness_legal

theorem witness_AdmittedHostNeverStuck :
    { base with pending := [.read 0x004 4, .write 0xFFC 4 0, .reset] }.hostAdmitted ∧ base.params.Covers := by
  refine ⟨?_, witness_standard.1⟩
  simp only [State.hostAdmitted]; decide +kernel

/-- SET_DLC 9 on a Classical slot changes the DLC and the DLEN. -/
theorem witness_DlenFollowsDlc :
    (∀ fs, (base.frame fs).dlen = dlcToLen (base.frame fs).dlc (base.frame fs).flags.fdf) ∧
    ∃ t, runWord 0x10000000 { base with arg0 := 9 } = .next t ∧ (t.frame 0).dlc ≠ (base.frame 0).dlc ∧
      (t.frame 0).dlen ≠ (base.frame 0).dlen := ⟨by decide +kernel, _, rfl, by decide +kernel, by decide +kernel⟩

theorem witness_WarningsAreSticky : base.status.err = false ∧ { base with arg0 := 31 }.arg0.toNat < 32 ∧
    runWord 0 base = .next base ∧ (∀ fs, decode 0 ≠ .ok (.setFlags fs)) ∧ ((0xFFC : Addr) ≠ 0x000 ∧ (0xFFC : Addr) ≠ 0x008) ∧
    writeAt 0xFFC 31 base = .next base :=
  ⟨rfl, by decide, rfl, fun _ h => (nomatch (h : Except.ok Instr.nop = _)), by decide, rfl⟩

theorem witness_SnapshotStaysUntilBuild : (∀ bf fs, Instr.update 0 true ≠ .build bf fs) ∧
    (∃ t, exec (.update 0 true) (demo 0 0 0) = .next t) ∧ (Instr.update 0 true).touches.checks ≠ [] ∧
    (∃ t, exec (.readLen 0) (demo 0 0 0) = .next t) ∧ (Instr.readLen 0).touches.edits = none :=
  ⟨fun _ _ h => (nomatch h), ⟨_, rfl⟩, fun h => (nomatch h), ⟨_, rfl⟩, rfl⟩

theorem witness_SetTimingResult : base.status.err = false ∧
    ({ base with arg0 := 0x05050202 } : State).arg0 = (5#8 ++ 5#8 ++ 2#8 ++ 2#8 : BitVec 32) := ⟨rfl, rfl⟩

/-- The clauses for 8-bit fields, for operands that fit 2-bit fields, and for a legal timing of which `ph1` = 4 does not. -/
theorem witness_SetTimingResult_width : 8 ≤ base.params.timingWidth ∧
    (∀ x ∈ [3#8, 3#8, 3#8, 0#8, 3#8], x.toNat < 2 ^ small.params.timingWidth) ∧ small.status.err = false ∧
    ({ small with arg0 := 0x00000400 } : State).arg0 = (0#8 ++ 0#8 ++ 4#8 ++ 0#8 : BitVec 32) ∧
    ¬((0#8).toNat > (0#8).toNat + (4#8).toNat + 1 ∨ (0#8).toNat > (0#8).toNat) ∧
    ¬((1#32).toNat = 0 ∨ (1#32).toNat > 255) ∧ 1 ≤ small.params.timingWidth ∧ ¬(4#8).toNat < 2 ^ small.params.timingWidth := by
  decide +kernel

theorem witness_SetFlagsResult : base.status.err = false ∧ 32 ≤ { base with arg0 := 32 }.arg0.toNat ∧
    { base with arg0 := 31 }.arg0 = 0#27 ++ BitVec.ofBool true ++ BitVec.ofBool true ++ BitVec.ofBool true
      ++ BitVec.ofBool true ++ BitVec.ofBool true ∧
    { base with arg0 := 5 }.arg0 = 0#27 ++ BitVec.ofBool false ++ BitVec.ofBool false ++ BitVec.ofBool true
      ++ BitVec.ofBool false ++ BitVec.ofBool true := by decide +kernel

theorem witness_SetDlcSetDlenResult : base.status.err = false ∧
    ((base.frame 0).flags.fdf = false → (8#4).toNat ≤ 8) ∧
    { base with arg0 := 8 }.arg0.toNat = (dlcToLen 8 (base.frame 0).flags.fdf).toNat ∧
    (∀ d : BitVec 4, { base with arg0 := 9 }.arg0.toNat ≠ (dlcToLen d (base.frame 0).flags.fdf).toNat) ∧
    (64#32).toNat = (dlcToLen 15 fdFrame.flags.fdf).toNat ∧
    (∀ d : BitVec 4, (65#32).toNat ≠ (dlcToLen d fdFrame.flags.fdf).toNat) := by decide +kernel

theorem witness_SetIdResult : base.status.err = false := rfl

theorem witness_RandomizeResult : base.status.err = false ∧ (base.frame 0).rand = 0 ∧
    ((withFrame { base.frame 0 with rand := 7 }).frame 0).rand ≠ 0 := by decide +kernel

theorem witness_FrameEqResult : base.status.err = false ∧
    ((base.frame 0).id = (base.frame 1).id ∧ (base.frame 0).dlc = (base.frame 1).dlc ∧
      (base.frame 0).flags = (base.frame 1).flags ∧
      ∀ k : Fin 64, k.val < (base.frame 0).dlen.toNat → (base.frame 0).data[k] = (base.frame 1).data[k]) ∧
    ((withFrame { base.frame 0 with id := 1 }).frame 0).id ≠ ((withFrame { base.frame 0 with id := 1 }).frame 1).id := by
  decide +kernel

theorem witness_DlcTable : 9 ≤ (9#4).toNat ∧ 9 ≤ (15#4).toNat ∧ (8#4).toNat ≤ 8 := by decide

theorem witness_DlcConversionResults : base.status.err = false ∧ (false = false → (8#4).toNat ≤ 8) ∧
    (8#32).toNat = (dlcToLen 8 false).toNat ∧ (64#32).toNat = (dlcToLen 15 true).toNat ∧
    (∀ d : BitVec 4, (9#32).toNat ≠ (dlcToLen d true).toNat) ∧ (∀ d : BitVec 4, (9#32).toNat ≠ (dlcToLen d false).toNat) := by
  decide +kernel

/-- The NBT is the timing of every phase in a Classical slot, and the DBT that of Ph2 of the BRS bit in an FD one. -/
theorem witness_isTimingOf : (∀ t p, isTimingOf classical t p nbt) ∧ isTimingOf fd .brs .ph2 dbt ∧ isTimingOf fd .brs .ph1 nbt := by
  refine ⟨fun t p => ⟨fun h => (nomatch h.1), fun _ => rfl⟩, ⟨fun _ => rfl, fun h => ?_⟩, ⟨fun h => ?_, fun _ => rfl⟩⟩
  · exact absurd ⟨rfl, rfl, Or.inr (Or.inl ⟨rfl, rfl⟩)⟩ h
  · rcases h.2.2 with h | h | h
    · revert h; decide
    · exact nomatch h.2
    · exact nomatch h.1

theorem witness_LengthenShortenResults : ∀ n ∈ [0, 2, 3, 253, 254], (demo 0 n 0).ready 0 ∧
    ((demo 0 n 0).slot 0).bits[(demo 0 n 0).arg0.toNat]? = some (newBit classical .sof .dominant) ∧
    isTimingOf ((demo 0 n 0).slot 0).snap (newBit classical .sof .dominant).tag .ph1 nbt ∧
    phasesOrdered (newBit classical .sof .dominant).tqs ∧ (newBit classical .sof .dominant).count .ph1 = 2 ∧
    (demo 0 n 0).params.maxTqPerPhase = 255 ∧ nbt.brp.toNat ≤ (demo 0 n 0).params.maxTqCycles :=
  fun _ _ => ⟨⟨rfl, rfl⟩, rfl, witness_isTimingOf.1 _ _, by simp only [phasesOrdered]; decide +kernel, rfl, rfl,
    by show 2 ≤ 65535; decide⟩

/-- A slot whose nominal timing makes quanta of 3 cycles, in a block with `MAX_TQ_CYCLES` 2. -/
def wide : State :=
  ({ base with params := { Config.Params.standard with maxTqCycles := 2 } }).setSlot 0
    { valid := true, snap := { classical with nbt := { nbt with brp := 3 } }, bits := [newBit classical .sof .dominant] }

/-- The clauses for a fresh quantum or bit too big, of `LengthenShortenResults`, `InsertResults`, `AppendAndTruncateResults`
and `InsertFrameResults`: it is so, and the number of bits or quanta is not what is too big. -/
theorem witness_freshTooBig : wide.ready 0 ∧ { wide with arg1 := 1 }.ready 0 ∧
    (wide.slot 0).bits[wide.arg0.toNat]? = some (newBit classical .sof .dominant) ∧
    isTimingOf (wide.slot 0).snap Tag.sof .ph1 { nbt with brp := 3 } ∧
    ({ wide with arg1 := 1 }.arg1.toNat ≠ 0 ∧ wide.params.maxTqCycles < ({ nbt with brp := 3 } : BitTiming).brp.toNat) ∧
    ¬wide.params.maxTqPerPhase < (newBit classical .sof .dominant).count .ph1 + 1 ∧
    ¬wide.params.maxBits < (wide.slot 0).bits.length + 17 ∧
    (newBit (wide.slot 0).snap .idle .recessive).tooBig wide.params = true ∧
    (newBit (wide.slot 0).snap .suspend .recessive).tooBig wide.params = true ∧
    results (.lengthen 0 .ph1) { wide with arg1 := 1 } = some (0, 0, 0x0D) ∧
    results (.insertBit 0 .idle .recessive) wide = some (0, 0, 0x0D) ∧
    results (.appendBit 0 .idle .recessive) wide = some (0, 0, 0x0D) ∧
    results (.appendSuspend 0) wide = some (0, 0, 0x0D) ∧ results (.insOvr 0) wide = some (0, 0, 0x0D) := by
  refine ⟨⟨rfl, rfl⟩, ⟨rfl, rfl⟩, rfl, ?_, by decide +kernel⟩
  exact ⟨fun h => (nomatch h.1), fun _ => rfl⟩

/-- Quanta 0 and 1 of a nominal bit are Sync and Prop, 2 and 3 Ph1, 4 Ph2. -/
theorem witness_firstLast : isFirstOf .ph1 (newBit classical .sof .dominant).tqs 2 ∧
    isLastOf .ph1 (newBit classical .sof .dominant).tqs 3 ∧ isLastOf .ph2 (newBit classical .sof .dominant).tqs 4 := by
  have h : ∀ (j : Nat) (q : Tq), (newBit classical .sof .dominant).tqs[j]? = some q →
      (j < 2 → q.phase ≠ .ph1) ∧ (j > 3 → q.phase ≠ .ph1) ∧ (j > 4 → q.phase ≠ .ph2) := by
    have h5 : ∀ j < 5, ∀ q ∈ (newBit classical .sof .dominant).tqs[j]?,
        (j < 2 → q.phase ≠ .ph1) ∧ (j > 3 → q.phase ≠ .ph1) ∧ (j > 4 → q.phase ≠ .ph2) := by decide +kernel
    intro j q hq
    have hlt : j < 5 := (List.getElem?_eq_some_iff.mp hq).1
    exact h5 j hlt q hq
  exact ⟨⟨⟨_, rfl, rfl⟩, fun j hj q hq => (h j q hq).1 hj⟩, ⟨⟨_, rfl, rfl⟩, fun j hj q hq => (h j q hq).2.1 hj⟩,
    ⟨⟨_, rfl, rfl⟩, fun j hj q hq => (h j q hq).2.2 hj⟩⟩

theorem witness_ForceResults : (demo 0 4 0).ready 0 ∧ (demo 0 5 0).ready 0 ∧ (demo 0 2 0).ready 0 ∧ (demo 0 1 0).ready 0 ∧
    ((demo 0 4 0).slot 0).bits[(demo 0 4 0).arg0.toNat]? = some (newBit classical .sof .dominant) ∧
    (false = false ∧ Phase.ph1 ≠ .sync) ∧ (newBit classical .sof .dominant).tqs.length ≤ (demo 0 5 0).arg1.toNat ∧
    (newBit classical .sof .dominant).count .ph1 ≤ (demo 0 2 0).arg1.toNat ∧
    selects (newBit classical .sof .dominant) false .sync (demo 0 4 0).arg1.toNat 4 ∧
    selects (newBit classical .sof .dominant) true .ph1 (demo 0 1 0).arg1.toNat 3 ∧
    (newBit classical .sof .dominant).tqs[4]? = some (newTq .ph2 2) ∧
    (newBit classical .sof .dominant).tqs[3]? = some (newTq .ph1 2) :=
  ⟨⟨rfl, rfl⟩, ⟨rfl, rfl⟩, ⟨rfl, rfl⟩, ⟨rfl, rfl⟩, rfl, ⟨rfl, by decide⟩, by decide +kernel, by decide +kernel,
    ⟨rfl, by decide +kernel, rfl⟩, ⟨by decide +kernel, 2, witness_firstLast.1, rfl⟩, rfl, rfl⟩

theorem witness_NavigationResults : (demo 0 0 0).ready 0 ∧ (noProp 0).ready 0 ∧
    ((demo 0 0 0).slot 0).bits[(demo 0 0 0).arg0.toNat]? = some (newBit classical .sof .dominant) ∧
    ((noProp 0).slot 0).bits[(noProp 0).arg0.toNat]? = some (newBit fd .data .dominant) ∧
    (newBit fd .data .dominant).count .prop = 0 ∧ isFirstOf .ph1 (newBit classical .sof .dominant).tqs 2 ∧
    isLastOf .ph1 (newBit classical .sof .dominant).tqs 3 ∧
    (∀ q : Phase, q.code.toNat < Phase.sync.code.toNat → (newBit classical .sof .dominant).count q = 0) ∧
    Phase.sync.code.toNat < Phase.ph1.code.toNat ∧ (newBit fd .data .dominant).count .sync > 0 ∧
    (∀ r : Phase, Phase.sync.code.toNat < r.code.toNat → r.code.toNat < Phase.ph1.code.toNat →
      (newBit fd .data .dominant).count r = 0) := by
  refine ⟨⟨rfl, rfl⟩, ⟨rfl, rfl⟩, rfl, rfl, rfl, witness_firstLast.1, witness_firstLast.2.1,
    fun q h => absurd h (Nat.not_lt_zero _), by decide, by decide +kernel, fun r => ?_⟩
  cases r <;> decide +kernel

theorem witness_ResyncResult : (∀ e ∈ [0, 1, 0xFFFFFFFF], (demo 0 e 0).ready 0 ∧
      ((demo 0 e 0).slot 0).bits[(demo 0 e 0).arg0.toNat]? = some (newBit classical .sof .dominant)) ∧
    (∀ p, isTimingOf ((demo 0 0 0).slot 0).snap (newBit classical .sof .dominant).tag p nbt) ∧
    (demo 0 0 0).arg1.toInt = 0 ∧ 0 < (demo 0 1 0).arg1.toInt ∧ (demo 0 0xFFFFFFFF 0).arg1.toInt < 0 ∧
    1 = min (demo 0 1 0).arg1.toInt.natAbs nbt.sjw.toNat ∧ 1 = min (demo 0 0xFFFFFFFF 0).arg1.toInt.natAbs nbt.sjw.toNat :=
  ⟨fun _ _ => ⟨⟨rfl, rfl⟩, rfl⟩, fun p => witness_isTimingOf.1 _ p, by decide +kernel, by decide +kernel, by decide +kernel,
    by decide +kernel, by decide +kernel⟩

theorem witness_buildable : (withFrame (base.frame 0)).status.err = false ∧ (withFrame (base.frame 0)).buildable 0 ∧
    (withFrame fdFrame).status.err = false ∧ (withFrame fdFrame).buildable 0 ∧ ((withFrame fdFrame).frame 0).flags.fdf = true ∧
    (withFrame { base.frame 0 with id := 0x7FF }).buildable 0 := by
  simp only [State.buildable]; decide +kernel

/-- An FD frame with a bit-rate shift, while the data timing is not set. -/
def noDbt : State := withFrame { fdFrame with flags := ⟨true, false, false, true, false⟩ }

/-- A base-format frame with an identifier of 12 bits. -/
def wideId : State := withFrame { base.frame 0 with id := 0x800 }

theorem witness_BuildOutcome : base.status.err = false ∧ base.nbt.valid = false ∧
    ((noDbt.frame 0).flags.fdf = true ∧ (noDbt.frame 0).flags.brs = true ∧ noDbt.dbt.valid = false) ∧
    (wideId.nbt.valid = true ∧
      ((wideId.frame 0).flags.fdf = true → (wideId.frame 0).flags.brs = true → wideId.dbt.valid = true) ∧
      (wideId.frame 0).flags.ide = false ∧ 2 ^ 11 ≤ (wideId.frame 0).id.toNat) ∧
    (withFrame (base.frame 0)).buildable 0 ∧ (withFrame (base.frame 0)).params.Roomy :=
  ⟨rfl, rfl, ⟨rfl, rfl, rfl⟩, ⟨rfl, fun h => (nomatch h), rfl, by decide⟩, witness_buildable.2.1, witness_standard.2.1⟩

/-- BUILD of a frame of 53 bits where `MAX_BITS` is 4: the `E_CAPACITY` of `BuildOutcome`. -/
theorem witness_BuildOutcome_capacity : ({ withFrame (base.frame 0) with params := small.params }).buildable 0 ∧
    results (.build 0 0) { withFrame (base.frame 0) with params := small.params } = some (0, 0, 0x0D) :=
  ⟨witness_buildable.2.1, by decide +kernel⟩

/-- BUILD of a frame in either format completes. -/
theorem witness_BuiltFrameLayout :
    ((withFrame fdFrame).status.err = false ∧ ((withFrame fdFrame).frame 0).Wf ∧
      ((after (exec (.build 0 0) (withFrame fdFrame))).map fun t => t.status.err) = some false) ∧
    ((withFrame (base.frame 0)).status.err = false ∧ ((withFrame (base.frame 0)).frame 0).Wf ∧
      ((after (exec (.build 0 0) (withFrame (base.frame 0)))).map fun t => t.status.err) = some false) := by
  refine ⟨⟨rfl, ?_, by decide +kernel⟩, ⟨rfl, ?_, by decide +kernel⟩⟩ <;>
    simp only [Frame.Wf, FrameFlags.Legal] <;> decide +kernel

/-- Slot 0 just built from an FD frame whose only data byte, 0x1F, ends in a run of five. -/
def builtFd : BitFrame :=
  match after (exec (.build 0 0) (withFrame { fdFrame with dlc := 1, dlen := 1, data := (Vector.replicate 64 0).set 0 0x1F })) with
  | some t => t.slot 0
  | none => BitFrame.reset

/-- BUILD and UPDATE of a built slot complete. In `builtFd` a run of five starts the slot and is followed by a regular stuff
bit, and another ends the stuffed region, right before the CRC field. -/
theorem witness_RegularStuffing : ((after (exec (.build 0 0) (withFrame fdFrame))).map fun t => t.status.err) = some false ∧
    ((after (exec (.update 0 true) (demo 0 0 0))).map fun t => t.status.err) = some false ∧
    runAt builtFd.stuffRegion 0 5 .dominant ∧ ((builtFd.stuffRegion[5]?).map BitRec.stuff) = some .regular ∧
    builtFd.stuffRegion.length = 28 + 5 ∧ runAt builtFd.stuffRegion 28 5 .recessive ∧
    ((builtFd.bits[33]?).map fun c => inCrcField c.tag) = some true := by
  have h : ∀ i v, (∀ j < 5, (builtFd.stuffRegion[i + j]?).map BitRec.value = some v) → runAt builtFd.stuffRegion i 5 v :=
    fun i v h j hj => Option.map_eq_some_iff.mp (h j hj)
  exact ⟨by decide +kernel, by decide +kernel, h _ _ (by decide +kernel), by decide +kernel, by decide +kernel,
    h _ _ (by decide +kernel), by decide +kernel⟩

/-- An FD slot cut off in its CRC field and with a bit flipped: an identifier bit, two stuff-count bits, a parity bit and two
CRC bits, then an ACK bit, which is no bit of the prefix. -/
def cutFd : State :=
  base.setSlot 0 ⟨true, fd, [newBit fd .baseIdentifier .recessive, newBit fd .stuffCount .recessive,
    newBit fd .stuffCount .recessive, newBit fd .stuffParity .recessive, newBit fd .crc .dominant, newBit fd .crc .dominant,
    newBit fd .crcDelimiter .recessive]⟩

/-- UPDATE of `cutFd`, by 42_encoder R223 to R230: a fixed stuff bit before the field (the complement of the Recessive bit
before it) and one before its fifth bit, `fsp` 0 and 1, the count 0 and its parity. -/
theorem test_update_cut :
    ((after (exec (.update 0 false) cutFd)).map fun t => (t.slot 0).bits.map fun b => (b.tag, b.value, b.stuff, b.fsp)) =
      some [(.baseIdentifier, .recessive, .none, false), (.stuffCount, .dominant, .fixed, false),
        (.stuffCount, .dominant, .none, false), (.stuffCount, .dominant, .none, false), (.stuffParity, .dominant, .none, false),
        (.crc, .dominant, .none, false), (.crc, .recessive, .fixed, true), (.crc, .dominant, .none, false),
        (.crcDelimiter, .recessive, .none, false)] := by decide +kernel

/-- BUILD in either format and UPDATE of a slot cut off in its CRC field complete: of `FixedStuffing`, `StuffCountField` and
`BuiltCrcLeavesZero`. -/
theorem witness_FixedStuffing :
    ((after (exec (.build 0 0) (withFrame fdFrame))).map fun t => (t.status.err, (t.slot 0).snap.flags.fdf)) = some (false, true) ∧
    ((after (exec (.build 0 0) (withFrame (base.frame 0)))).map fun t => (t.status.err, (t.slot 0).snap.flags.fdf)) =
      some (false, false) ∧
    ((after (exec (.update 0 true) cutFd)).map fun t => (t.status.err, (t.slot 0).snap.flags.fdf, (t.slot 0).prefixBits.length)) =
      some (false, true, 8) := by decide +kernel

theorem witness_StuffCountField :
    ((after (exec (.update 0 true) cutFd)).map fun t => (t.status.err, (t.slot 0).snap.flags.fdf)) = some (false, true) ∧
    ((after (exec (.build 0 0) (withFrame fdFrame))).map fun t => (t.status.err, (t.slot 0).snap.flags.fdf)) = some (false, true) :=
  ⟨by decide +kernel, by decide +kernel⟩

/-- A partial CRC of two bits, and a complete one. -/
theorem witness_BuiltCrcLeavesZero :
    ((after (exec (.update 0 true) cutFd)).map fun t => (t.status.err, (t.slot 0).crcValues.length)) = some (false, 2) ∧
    ((after (exec (.build 0 0) (withFrame fdFrame))).map fun t => (t.status.err, (t.slot 0).crcValues.length)) =
      some (false, 17) := ⟨by decide +kernel, by decide +kernel⟩

theorem witness_UpdateIdempotent : (demo 0 0 0).status.err = false ∧
    ((after (exec (.update 0 true) (demo 0 0 0))).map fun t => t.status.err) = some false ∧
    ((after (exec (.build 0 0) (withFrame fdFrame))).map fun t => t.status.err) = some false :=
  ⟨rfl, by decide +kernel, by decide +kernel⟩

/-- Slot 0 filled up with 4096 Dominant identifier bits without quanta: UPDATE stuffs them to more than `MAX_BITS`. -/
def overlong : State :=
  base.setSlot 0 ⟨true, classical, List.replicate 4096 { newBit classical .baseIdentifier .dominant with tqs := [] }⟩

theorem witness_UpdateOutcome : (demo 0 0 0).ready 0 ∧ ¬((demo 0 0 0).slot 0).crcFieldTooLong ∧ sixteenCrc.ready 0 ∧
    (sixteenCrc.slot 0).crcFieldTooLong ∧ overlong.ready 0 ∧ ¬(overlong.slot 0).crcFieldTooLong := by
  refine ⟨⟨rfl, rfl⟩, ?_, ⟨rfl, rfl⟩, ?_, ⟨rfl, rfl⟩, ?_⟩ <;> simp only [BitFrame.crcFieldTooLong] <;> decide +kernel

/-- The `E_CAPACITY` of `UpdateOutcome`: more than `MAX_BITS` bits after stuffing, and, in a block of 2-cycle quanta, a fresh
stuff bit with quanta of 3 cycles. -/
theorem witness_UpdateOutcome_capacity : results (.update 0 true) overlong = some (0, 0, 0x0D) ∧
    results (.update 0 false) { ({ overlong with params := { small.params with maxBits := 9 } }.setSlot 0
      ⟨true, { classical with nbt := { nbt with brp := 3 } }, List.replicate 5 { newBit classical .sof .dominant with tqs := [] }⟩)
      with arg0 := 0 } = some (0, 0, 0x0D) := ⟨by decide +kernel, by decide +kernel⟩

theorem witness_CountingQueries : (demo 3 0 0).ready 0 ∧ (demo 4 0 0).ready 0 ∧
    ((demo 4 0 0).slot 0).bits.length ≤ (demo 4 0 0).arg0.toNat ∧
    ((demo 3 0 0).slot 0).bits[(demo 3 0 0).arg0.toNat]? = some (newBit classical .ack .recessive) :=
  ⟨⟨rfl, rfl⟩, ⟨rfl, rfl⟩, by decide +kernel, rfl⟩

theorem witness_ReadOutResults : (demo 3 4 1).ready 0 ∧ (demo 4 0 0).ready 0 ∧ (demo 3 5 2).ready 0 ∧
    ((demo 4 0 0).slot 0).bits.length ≤ (demo 4 0 0).arg0.toNat ∧
    ((demo 3 4 1).slot 0).bits[(demo 3 4 1).arg0.toNat]? = some (newBit classical .ack .recessive) ∧
    (false = true ↔ ∃ q ∈ (newBit classical .ack .recessive).tqs, q.tqf ≠ none ∨ ∃ c ∈ q.cyc, c ≠ none) ∧
    (newBit classical .ack .recessive).tqs.length ≤ (demo 3 5 2).arg1.toNat ∧
    (newBit classical .ack .recessive).tqs[(demo 3 4 1).arg1.toNat]? = some (newTq .ph2 2) ∧
    (false = true ↔ ∃ c ∈ (newTq .ph2 2).cyc, c ≠ none) ∧ (newTq .ph2 2).len ≤ (demo 3 5 2).arg2.toNat ∧
    (demo 3 4 1).arg2.toNat < (newTq .ph2 2).len ∧ (newTq .ph2 2).cyc[(demo 3 4 1).arg2.toNat]? = some none :=
  ⟨⟨rfl, rfl⟩, ⟨rfl, rfl⟩, ⟨rfl, rfl⟩, by decide +kernel, rfl, by decide +kernel, by decide +kernel, rfl, by decide +kernel,
    by decide +kernel, by decide +kernel, rfl⟩

theorem witness_WaveIsReadCycleByCycle : (demo 3 4 1).ready 0 ∧
    ((demo 3 4 1).slot 0).bits[(demo 3 4 1).arg0.toNat]? = some (newBit classical .ack .recessive) ∧
    (newBit classical .ack .recessive).tqs[(demo 3 4 1).arg1.toNat]? = some (newTq .ph2 2) ∧
    (demo 3 4 1).arg2.toNat < (newTq .ph2 2).len := ⟨⟨rfl, rfl⟩, rfl, rfl, by decide +kernel⟩

theorem witness_SelectionQueries : (demo 1 0 0).ready 0 ∧ (demo 2 0 0).ready 0 ∧
    ((∀ b : BitRec, (b.tag == .baseIdentifier) = true ↔ b.tag = .baseIdentifier) ∧ opcodeOf (.getBitOf 0 .baseIdentifier) = 0x17) ∧
    four.countP (fun b => b.tag == .baseIdentifier) ≤ (demo 2 0 0).arg0.toNat ∧
    isNth (fun b => b.tag == .baseIdentifier) four (demo 1 0 0).arg0.toNat 2 ∧
    opcodeOf (.getBitOfNs 0 .baseIdentifier) = 0x18 ∧ isNth (fun b => b.tag == .baseIdentifier && b.stuff == .none) four 0 1 ∧
    opcodeOf (.getStuffBit 0 .regular none) = 0x1A ∧ isNth (fun b => b.stuff == .regular) four 0 2 :=
  ⟨⟨rfl, rfl⟩, ⟨rfl, rfl⟩, ⟨fun _ => beq_iff_eq, rfl⟩, by decide +kernel, ⟨⟨_, rfl, rfl⟩, rfl⟩, rfl, ⟨⟨_, rfl, rfl⟩, rfl⟩, rfl,
    ⟨⟨_, rfl, rfl⟩, rfl⟩⟩

theorem witness_RandomBitQuery : (demo 0 0 0).ready 0 ∧
    (∀ b ∈ four, ¬(b.tag = .baseIdentifier ∧ b.stuff = .none ∧ (some Level.recessive = none ∨ some Level.recessive = some b.value))) ∧
    (∃ b ∈ four, b.tag = .baseIdentifier ∧ b.stuff = .none ∧ (some Level.dominant = none ∨ some Level.dominant = some b.value)) :=
  ⟨⟨rfl, rfl⟩, by decide +kernel, by decide +kernel⟩

theorem witness_InsertResults : (demo 4 3 0).ready 0 ∧ ((demo 4 3 0).slot 0).valid = true ∧ ((demo 4 0 0).slot 1).valid = true ∧
    ((demo 4 0 0).slot 1).bits.length ≤ (demo 4 0 0).arg1.toNat ∧
    ((demo 4 3 0).slot 0).bits[(demo 4 3 0).arg1.toNat]? = some (newBit classical .ack .recessive) :=
  ⟨⟨rfl, rfl⟩, rfl, rfl, by decide +kernel, rfl⟩

theorem witness_RemoveBitResult : (demo 1 0 0).ready 0 ∧ (demo 2 0 0).ready 0 ∧
    ((demo 2 0 0).slot 0).bits.countP (fun b => b.tag == .baseIdentifier) ≤ (demo 2 0 0).arg0.toNat ∧
    isNth (fun b => b.tag == .baseIdentifier) ((demo 1 0 0).slot 0).bits (demo 1 0 0).arg0.toNat 2 :=
  ⟨⟨rfl, rfl⟩, ⟨rfl, rfl⟩, by decide +kernel, ⟨⟨_, rfl, rfl⟩, rfl⟩⟩

theorem witness_AppendAndTruncateResults : (demo 4 0 0).ready 0 ∧ ((demo 4 0 0).slot 1).valid = true ∧ full.ready 0 :=
  ⟨⟨rfl, rfl⟩, rfl, ⟨rfl, rfl⟩⟩

theorem witness_InsertFrameResults : (demo 4 0 0).ready 0 ∧ opcodeOf (.insActErr 0) = 0x29 ∧ opcodeOf (.insPasErr 0) = 0x2A ∧
    opcodeOf (.insOvr 0) = 0x2B := ⟨⟨rfl, rfl⟩, rfl, rfl, rfl⟩

theorem witness_ReceiverViewResults : (demo 4 0 0).ready 0 ∧ ((demo 4 0 0).slot 0).bits.length ≤ (demo 4 0 0).arg0.toNat ∧
    (demo 3 0 0).ready 0 ∧ (demo 3 0 0).arg0.toNat < ((demo 3 0 0).slot 0).bits.length :=
  ⟨⟨rfl, rfl⟩, by decide +kernel, ⟨rfl, rfl⟩, by decide +kernel⟩

theorem witness_FlipResults : (demo 0 0 0).ready 0 ∧ noQuanta.ready 0 ∧
    ((demo 0 0 0).slot 0).bits[(demo 0 0 0).arg0.toNat]? = some (newBit classical .sof .dominant) ∧
    (noQuanta.slot 0).bits[noQuanta.arg0.toNat]? = some { newBit classical .idle .recessive with tqs := [] } ∧
    BitRec.count { newBit classical .idle .recessive with tqs := [] } .ph2 = 0 ∧
    isLastOf .ph2 (newBit classical .sof .dominant).tqs 4 ∧
    (newBit classical .sof .dominant).tqs[4]? = some (newTq .ph2 2) :=
  ⟨⟨rfl, rfl⟩, ⟨rfl, rfl⟩, rfl, rfl, rfl, witness_firstLast.2.2, rfl⟩

end Sys2Proof.Tests
end

section
/-! What a computation of a command's body guarantees of its answer: one rule for each way the model puts computations
together, so that a proof about a command follows the command's own text. -/

namespace Sys2Proof.Invariant

open Sys2Proof.Machine Sys2Proof.Laws

/-- Where `x` answers, its answer meets `Q`. -/
def Yields {α : Type} (x : Except Err α) (Q : α → Prop) : Prop :=
  ∀ a, x = .ok a → Q a

section

variable {α β : Type} {Q : β → Prop}

theorem yields_ok {a : β} (h : Q a) : Yields (.ok a) Q := by
  rintro _ ⟨⟩
  exact h

theorem yields_error {e : Err} : Yields (.error e) Q := nofun

/-- A check: the rest runs only where the condition that raises the error does not hold. -/
theorem yields_check {p : Prop} [Decidable p] {e : Err} {x : Except Err β} (h : ¬p → Yields x Q) :
    Yields (if p then .error e else x) Q := by
  split
  · exact yields_error
  · next hp => exact h hp

theorem yields_mono {x : Except Err β} {Q' : β → Prop} (hQ : ∀ a, Q' a → Q a) (h : Yields x Q') : Yields x Q :=
  fun a ha => hQ a (h a ha)

theorem yields_map {x : Except Err α} {g : α → β} (h : Yields x fun a => Q (g a)) : Yields (x.map g) Q := by
  cases x with
  | error e => exact yields_error
  | ok a => exact yields_ok (h a rfl)

theorem yields_bind {x : Except Err α} {g : α → Except Err β} (h : Yields x fun a => Yields (g a) Q) :
    Yields (x.bind g) Q := by
  cases x with
  | error e => exact yields_error
  | ok a => exact h a rfl

theorem yields_withSlot {s : State} {bf : BfIx} {k : BitFrame → Except Err β}
    (h : (s.slot bf).valid = true → Yields (k (s.slot bf)) Q) : Yields (withSlot s bf k) Q := fun a ha =>
  have ⟨hvalid, hk⟩ := withSlot_ok ha
  h hvalid a hk

theorem yields_withBit {f : BitFrame} {i : Word} {k : BitRec → Except Err β}
    (h : ∀ b, f.bits[i.toNat]? = some b → Yields (k b) Q) : Yields (withBit f i k) Q := fun a ha =>
  have ⟨b, hb, hk⟩ := withBit_ok ha
  h b hb a hk

theorem yields_withTq {b : BitRec} {j : Nat} {k : Tq → Except Err β}
    (h : ∀ q, b.tqs[j]? = some q → Yields (k q) Q) : Yields (withTq b j k) Q := fun a ha =>
  have ⟨q, hq, hk⟩ := withTq_ok ha
  h q hq a hk

end

end Sys2Proof.Invariant
end

section
/-! Good bit records (10_state R37, R38): which edits of a bit's value and quanta keep `BitRec.Wf`, and what of it a fresh
bit has before the capacity check (41_bit_timing R171 to R184, 20_memory R67). -/

namespace Sys2Proof.Invariant

open Sys2Proof.Machine Sys2Proof.Laws

/-! ### Edits of a good bit -/

/-- `BitRec.Wf` does not speak of the value of a bit. -/
theorem wf_setValue {c : Config.Params} {b : BitRec} (h : b.Wf c) (v : Level) : ({ b with value := v } : BitRec).Wf c :=
  ⟨h.ordered, h.counts, h.quanta, h.fsp⟩

/-- Taking quanta away keeps a bit good. -/
theorem wf_sublist {c : Config.Params} {b : BitRec} {tqs : List Tq} (h : b.Wf c) (hs : tqs.Sublist b.tqs) :
    ({ b with tqs := tqs } : BitRec).Wf c :=
  ⟨h.ordered.sublist (hs.map _), fun p => hs.countP_le.trans (h.counts p), fun q hq => h.quanta q (hs.subset hq), h.fsp⟩

/-- Changing good quanta to good quanta of the same phases keeps a bit good. -/
theorem wf_of_samePhases {c : Config.Params} {b : BitRec} {tqs : List Tq} (h : b.Wf c)
    (hp : tqs.map Tq.phase = b.tqs.map Tq.phase) (hq : ∀ q ∈ tqs, q.Wf c) : ({ b with tqs := tqs } : BitRec).Wf c where
  ordered := by
    have := congrArg (List.map fun p : Phase => p.code.toNat) hp
    simp only [List.map_map] at this
    exact (congrArg (List.Pairwise (· ≤ ·)) this).mpr h.ordered
  counts p := by
    have := congrArg (List.countP (· == p)) hp
    simp only [List.countP_map] at this
    exact this.trans_le (h.counts p)
  quanta := hq
  fsp := h.fsp

/-- Changing one quantum, not its phase, keeps a bit good where it keeps that quantum good. -/
theorem wf_modify {c : Config.Params} {b : BitRec} {k : Nat} {f : Tq → Tq} (h : b.Wf c) (hp : ∀ q, (f q).phase = q.phase)
    (hq : ∀ q, b.tqs[k]? = some q → q.Wf c → (f q).Wf c) : ({ b with tqs := b.tqs.modify k f } : BitRec).Wf c := by
  refine wf_of_samePhases h (List.ext_getElem? fun j => ?_) fun q hmem => ?_
  · cases hj : b.tqs[j]? <;> simp [List.getElem?_modify, hj, apply_ite Tq.phase, hp]
  · obtain ⟨j, hj⟩ := List.mem_iff_getElem?.mp hmem
    obtain ⟨q0, hq0, rfl⟩ : ∃ q0, b.tqs[j]? = some q0 ∧ (if k = j then f q0 else q0) = q := by
      simpa [List.getElem?_modify] using hj
    have hwf := h.quanta q0 (List.mem_of_getElem? hq0)
    split
    · next hkj => exact hq q0 (hkj ▸ hq0) hwf
    · exact hwf

/-! ### Forces (41_bit_timing R183, R184) -/

theorem forceAll_wf {c : Config.Params} {q : Tq} (v : Level) (h : q.Wf c) : (q.forceAll v).Wf c :=
  ⟨h.1, h.2.1, List.length_replicate⟩

theorem forceCyc_wf {c : Config.Params} {q : Tq} (k : Nat) (v : Level) (h : q.Wf c) : (q.forceCyc k v).Wf c :=
  ⟨h.1, h.2.1, List.length_set.trans h.2.2⟩

theorem extend_wf {c : Config.Params} {q : Tq} {d : Nat} (h : q.Wf c) (hd : q.len + d ≤ c.maxTqCycles) :
    (q.extend d).Wf c := by
  obtain ⟨hpos, -, hcyc⟩ := h
  exact ⟨by simp only [Tq.extend]; omega, hd, by simp [Tq.extend, hcyc]⟩

/-! ### Adding quanta -/

/-- A fresh quantum of a legal length is good. -/
theorem newTq_wf {c : Config.Params} {p : Phase} {n : Nat} (h : 1 ≤ n) (hc : n ≤ c.maxTqCycles) : (newTq p n).Wf c :=
  ⟨h, hc, List.length_replicate⟩

/-- In a list in phase order, as many quanta stand before phase `p` as have an earlier phase, and those stand first. -/
theorem split_at_earlier {tqs : List Tq} (p : Phase) (h : phasesOrdered tqs) :
    (∀ q ∈ tqs.take (tqs.countP fun q => phaseBefore q.phase p), q.phase.code.toNat ≤ p.code.toNat) ∧
      ∀ q ∈ tqs.drop (tqs.countP fun q => phaseBefore q.phase p), p.code.toNat ≤ q.phase.code.toNat := by
  induction tqs with
  | nil => simp
  | cons x xs ih =>
    obtain ⟨hx, hxs⟩ : (∀ q ∈ xs, x.phase.code.toNat ≤ q.phase.code.toNat) ∧ phasesOrdered xs := by
      simpa [phasesOrdered] using h
    by_cases hxp : x.phase.code.toNat < p.code.toNat
    · have ih := ih hxs
      simp only [phaseBefore] at ih
      simpa [phaseBefore, hxp, hxp.le] using ih
    · have hnone : ((x :: xs).countP fun q => phaseBefore q.phase p) = 0 := by
        rw [List.countP_eq_zero, List.forall_mem_cons]
        simp only [phaseBefore, decide_eq_true_eq]
        exact ⟨hxp, fun q hq => by have := hx q hq; omega⟩
      rw [hnone]
      simp only [List.take_zero, List.drop_zero, List.forall_mem_cons]
      exact ⟨by simp, by omega, fun q hq => by have := hx q hq; omega⟩

/-- A new quantum of phase `p` goes after every quantum of an earlier or the same phase, and before every quantum of a later
one (41_bit_timing R173, R180). -/
theorem split_at_insertPoint {b : BitRec} (p : Phase) (h : phasesOrdered b.tqs) :
    (∀ q ∈ b.tqs.take (b.insertPoint p), q.phase.code.toNat ≤ p.code.toNat) ∧
      ∀ q ∈ b.tqs.drop (b.insertPoint p), p.code.toNat ≤ q.phase.code.toNat := by
  unfold BitRec.insertPoint
  split
  · next k hk =>
    obtain ⟨⟨ql, hql, hqlp⟩, -⟩ := lastIdx_some hk
    obtain ⟨hlt, rfl⟩ := List.getElem?_eq_some_iff.mp hql
    have hp : b.tqs[k].phase = p := by simpa using hqlp
    have hle := List.pairwise_iff_getElem.mp (List.pairwise_map.mp h)
    constructor
    · intro q hq
      obtain ⟨j, hj, rfl⟩ := List.mem_take_iff_getElem.mp hq
      obtain hjk | rfl : j < k ∨ j = k := by omega
      · exact hp ▸ hle j k _ hlt hjk
      · rw [hp]
    · intro q hq
      obtain ⟨j, hj, rfl⟩ := List.mem_drop_iff_getElem.mp hq
      exact hp ▸ hle k (k + 1 + j) hlt _ (by omega)
  · exact split_at_earlier p h

/-- Adding quanta to phase `p` adds them to the count of that phase and of no other. -/
theorem count_addTqs (b : BitRec) (p p' : Phase) (n len : Nat) :
    (b.addTqs p n len).count p' = b.count p' + if p = p' then n else 0 := by
  have h := congrArg (List.countP fun q : Tq => q.phase == p') (List.take_append_drop (b.insertPoint p) b.tqs)
  simp only [List.countP_append] at h
  obtain rfl | hp := eq_or_ne p p'
  · simp [BitRec.addTqs, BitRec.count, List.countP_append, List.countP_replicate]
    omega
  · simp [BitRec.addTqs, BitRec.count, List.countP_append, List.countP_replicate, hp]
    omega

/-- Adding quanta at the end of their phase keeps the phases in order. -/
theorem addTqs_ordered {b : BitRec} (p : Phase) (n len : Nat) (h : phasesOrdered b.tqs) :
    phasesOrdered (b.addTqs p n len).tqs := by
  obtain ⟨hbefore, hafter⟩ := split_at_insertPoint p h
  have hparts := h
  rw [← List.take_append_drop (b.insertPoint p) b.tqs] at hparts
  simp only [phasesOrdered, List.map_append, List.pairwise_append, List.forall_mem_map] at hparts
  obtain ⟨htake, hdrop, hcross⟩ := hparts
  simp only [phasesOrdered, BitRec.addTqs, List.map_append, List.map_replicate, List.pairwise_append,
    List.pairwise_replicate, List.forall_mem_append, List.forall_mem_map, newTq_phase, List.mem_replicate]
  refine ⟨⟨htake, .inr le_rfl, fun q hq n hn => hn.2 ▸ hbefore q hq⟩, hdrop, hcross, ?_⟩
  rintro _ ⟨-, rfl⟩ q hq
  exact hafter q hq

/-- Adding quanta within the bounds keeps a bit good. -/
theorem wf_addTqs {c : Config.Params} {b : BitRec} {p : Phase} {n len : Nat} (h : b.Wf c)
    (hn : b.count p + n ≤ c.maxTqPerPhase) (hq : n ≠ 0 → (newTq p len).Wf c) : (b.addTqs p n len).Wf c where
  ordered := addTqs_ordered p n len h.ordered
  counts p' := by
    rw [count_addTqs]
    split
    · next hp => exact hp ▸ hn
    · exact h.counts p'
  quanta q hmem := by
    simp only [BitRec.addTqs, List.mem_append, List.mem_replicate] at hmem
    rcases hmem with (hmem | ⟨hn0, rfl⟩) | hmem
    · exact h.quanta q (List.mem_of_mem_take hmem)
    · exact hq hn0
    · exact h.quanta q (List.mem_of_mem_drop hmem)
  fsp := h.fsp

/-! ### Removing quanta (41_bit_timing R181) -/

theorem dropLastOf_sublist (p : Phase) (tqs : List Tq) : (dropLastOf p tqs).Sublist tqs := by
  unfold dropLastOf
  split
  · exact List.eraseIdx_sublist _ _
  · exact List.Sublist.refl _

theorem dropLastsOf_sublist (p : Phase) (n : Nat) (tqs : List Tq) : (dropLastsOf p n tqs).Sublist tqs := by
  induction n generalizing tqs with
  | zero => exact List.Sublist.refl _
  | succ n ih => exact (ih _).trans (dropLastOf_sublist p tqs)

end Sys2Proof.Invariant
end

section
/-! Fresh bits, and the bits `Restuff` answers: each keeps what was good of the bits it was given, or is a fresh stuff bit
(41_bit_timing R170, R171, 42_encoder R219 to R230). -/

namespace Sys2Proof.Invariant

open Sys2Proof.Machine Sys2Proof.Laws

/-! ### Fresh bits -/

/-- What a bit has of `BitRec.Wf` before the capacity check looks at it. -/
structure Formed (b : BitRec) : Prop where
  ordered : phasesOrdered b.tqs
  quanta  : ∀ q ∈ b.tqs, 1 ≤ q.len ∧ q.cyc.length = q.len
  fsp     : b.fsp = true → b.stuff = .fixed

/-- The capacity check adds to a formed bit just what a good one has. -/
theorem wf_iff_formed_fits {c : Config.Params} {b : BitRec} : b.Wf c ↔ Formed b ∧ b.fits c = true := by
  simp only [BitRec.fits, Bool.and_eq_true, List.all_eq_true, decide_eq_true_eq]
  constructor
  · intro h
    exact ⟨⟨h.ordered, fun q hq => ⟨(h.quanta q hq).1, (h.quanta q hq).2.2⟩, h.fsp⟩, fun p _ => h.counts p,
      fun q hq => (h.quanta q hq).2.1⟩
  · rintro ⟨⟨hordered, hquanta, hfsp⟩, hcounts, hlen⟩
    exact ⟨hordered, fun p => hcounts p (by cases p <;> simp),
      fun q hq => ⟨(hquanta q hq).1, hlen q hq, (hquanta q hq).2⟩, hfsp⟩

theorem formed_setValue {b : BitRec} (h : Formed b) (v : Level) : Formed { b with value := v } :=
  ⟨h.ordered, h.quanta, h.fsp⟩

/-- Only a frame with a bit-rate shift has data timing (41_bit_timing R170). -/
theorem dom_data {t : Tag} {p : Phase} {fdf brs : Bool} (h : dom t p fdf brs = .data) : fdf = true ∧ brs = true := by
  unfold dom at h
  split at h
  · next hshift => simpa using hshift
  · cases h

/-- Every timing a good snapshot uses is valid, so its quanta last at least one cycle (10_state R29, 42_encoder R233). -/
theorem timing_brp_pos {c : Config.Params} {sn : Snap} (h : sn.Wf c) (t : Tag) (p : Phase) :
    1 ≤ (sn.timing t p).brp.toNat := by
  have hbrp : ∀ tm : BitTiming, tm.valid = true → tm.Wf c → 1 ≤ tm.brp.toNat := fun tm hv hw => by
    rw [BitTiming.Wf, if_pos hv] at hw
    exact hw.2.2.1
  unfold Snap.timing
  split
  · exact hbrp _ h.nbt.1 h.nbt.2
  · next hdom =>
    obtain ⟨hfdf, hbrs⟩ := dom_data hdom
    exact hbrp _ (h.dbt.1 hfdf hbrs) h.dbt.2

/-- A fresh bit of a slot with a good snapshot has its phases in order and quanta of at least one cycle. -/
theorem newBit_formed {c : Config.Params} {sn : Snap} (h : sn.Wf c) (t : Tag) (v : Level) : Formed (newBit sn t v) where
  ordered := by
    simp [phasesOrdered, newBit, newPhase, List.pairwise_append, List.pairwise_replicate, Phase.code, or_imp, forall_and]
  quanta q hq := by
    simp only [newBit, newPhase, List.mem_append, List.mem_replicate] at hq
    rcases hq with ((⟨-, rfl⟩ | ⟨-, rfl⟩) | ⟨-, rfl⟩) | ⟨-, rfl⟩ <;>
      exact ⟨timing_brp_pos h t _, List.length_replicate⟩
  fsp := by simp

/-- So has a fresh stuff bit, which must be a fixed one to carry `fsp`. -/
theorem stuffBit_formed {c : Config.Params} {sn : Snap} (h : sn.Wf c) (t : Tag) (v : Level) {k : StuffKind} {fsp : Bool}
    (hf : fsp = true → k = .fixed) : Formed (stuffBit sn t v k fsp) :=
  ⟨(newBit_formed h t (flipLevel v)).ordered, (newBit_formed h t (flipLevel v)).quanta, hf⟩

/-! ### The logical frame (42_encoder R219) -/

/-- Every bit of a list is a fresh one of the slot. -/
def Emitted (sn : Snap) (bits : List BitRec) : Prop :=
  ∀ b ∈ bits, ∃ t v, b = newBit sn t v

@[simp] theorem emitted_nil (sn : Snap) : Emitted sn [] := by simp [Emitted]

@[simp] theorem emitted_append {sn : Snap} {l l' : List BitRec} : Emitted sn (l ++ l') ↔ Emitted sn l ∧ Emitted sn l' :=
  List.forall_mem_append

@[simp] theorem emitted_emitField (sn : Snap) (t : Tag) (vs : List Level) : Emitted sn (emitField sn t vs) := by
  simp only [Emitted, emitField, List.forall_mem_map]
  exact fun v _ => ⟨t, v, rfl⟩

theorem logicalFrame_emitted (sn : Snap) (fr : Frame) : Emitted sn (logicalFrame sn fr) := by
  have harb : Emitted sn (arbitrationFields sn fr) := by unfold arbitrationFields; split <;> simp
  have hctl : Emitted sn (controlFields sn fr) := by unfold controlFields; dsimp only; split <;> simp
  have hcrc : Emitted sn (crcPlaceholders sn fr) := by unfold crcPlaceholders; split <;> simp
  simp [logicalFrame, trailingFields, harb, hctl, hcrc]

/-! ### What `Restuff` keeps -/

/-- A property of bits that does not speak of their values and that a stuff bit has from the bit it is put next to. -/
structure Inherited (sn : Snap) (P : BitRec → Prop) : Prop where
  value   : ∀ (b : BitRec) (v : Level), P b → P { b with value := v }
  regular : ∀ (b : BitRec) (v : Level), P b → P (stuffBit sn b.tag v .regular false)
  fixed   : ∀ (b : BitRec) (v : Level) (fsp : Bool), P b → P (stuffBit sn b.tag v .fixed fsp)

section

variable {sn : Snap} {P : BitRec → Prop} (hP : Inherited sn P)
include hP

theorem regStuff_inherits (last : Bool) {bits : List BitRec} (h : ∀ b ∈ bits, P b) :
    ∀ b ∈ regStuff sn last bits, P b := by
  suffices hfrom : ∀ rv rl, ∀ b ∈ regStuffFrom sn last rv rl bits, P b from hfrom none 0
  induction bits with
  | nil => simp [regStuffFrom]
  | cons x xs ih =>
    obtain ⟨hx, hxs⟩ := List.forall_mem_cons.mp h
    intro rv rl
    unfold regStuffFrom
    extract_lets rl'
    split
    · exact List.forall_mem_cons.mpr ⟨hx, List.forall_mem_cons.mpr ⟨hP.regular x _ hx, ih hxs _ _⟩⟩
    · exact List.forall_mem_cons.mpr ⟨hx, ih hxs _ _⟩

theorem fixStuff_inherits {out post : List BitRec} (ho : ∀ b ∈ out, P b) (hp : ∀ b ∈ post, P b) :
    ∀ b ∈ fixStuff sn out post, P b := by
  suffices hfrom : ∀ pv j, ∀ b ∈ fixStuffFrom sn pv j post, P b from List.forall_mem_append.mpr ⟨ho, hfrom _ _⟩
  induction post with
  | nil => simp [fixStuffFrom]
  | cons x xs ih =>
    obtain ⟨hx, hxs⟩ := List.forall_mem_cons.mp hp
    intro pv j
    unfold fixStuffFrom
    split
    · exact List.forall_mem_cons.mpr ⟨hP.fixed x _ _ hx, List.forall_mem_cons.mpr ⟨hx, ih hxs _ _⟩⟩
    · exact List.forall_mem_cons.mpr ⟨hx, ih hxs _ _⟩

theorem fillTag_inherits (t : Tag) (vs : List Level) {bits : List BitRec} (h : ∀ b ∈ bits, P b) :
    ∀ b ∈ fillTag t vs bits, P b := by
  intro b hb
  obtain ⟨hlen, hget⟩ := fillTag_frame t vs bits
  obtain ⟨i, hi⟩ := List.mem_iff_getElem?.mp hb
  have hlt : i < bits.length := hlen ▸ (List.getElem?_eq_some_iff.mp hi).1
  obtain ⟨v, hv, -⟩ := hget i bits[i] (List.getElem?_eq_getElem hlt)
  obtain rfl : _ = b := Option.some.inj (hv.symm.trans hi)
  exact hP.value _ v (h _ (List.getElem_mem hlt))

theorem restuffClassical_inherits (r : Bool) {l : List BitRec} (hl : ∀ b ∈ l, P b) :
    Yields (restuffClassical sn r l) fun out => ∀ b ∈ out, P b := by
  refine yields_check fun _ => yields_ok (regStuff_inherits hP _ ?_)
  split
  · exact fillTag_inherits hP _ _ hl
  · exact hl

theorem restuffFd_inherits (r : Bool) {l : List BitRec} (hl : ∀ b ∈ l, P b) :
    Yields (restuffFd sn r l) fun out => ∀ b ∈ out, P b := by
  unfold restuffFd
  extract_lets pre post out cnt post' post''
  have hout : ∀ b ∈ out, P b := regStuff_inherits hP _ fun b hb => hl b ((List.takeWhile_sublist _).subset hb)
  have hpost' : ∀ b ∈ post', P b := fillTag_inherits hP _ _ <| fillTag_inherits hP _ _ fun b hb =>
    hl b ((List.dropWhile_sublist _).subset hb)
  have hpost'' : ∀ b ∈ post'', P b := by
    unfold post''
    split
    · exact fillTag_inherits hP _ _ hpost'
    · exact hpost'
  exact yields_check fun _ => yields_ok (fixStuff_inherits hP hout hpost'')

/-- `Restuff` answers a new frame part, whose bits have what those of the old one had, and then the old rest
(42_encoder R230). -/
theorem restuff_inherits (r : Bool) {bits : List BitRec} (hb : ∀ b ∈ bits.takeWhile (fun b => b.tag.inFrame), P b) :
    Yields (restuff sn r bits) fun out =>
      ∃ front, out = front ++ bits.dropWhile (fun b => b.tag.inFrame) ∧ ∀ b ∈ front, P b := by
  have hl : ∀ b ∈ (bits.takeWhile fun b => b.tag.inFrame).filter fun b => b.stuff == .none, P b := fun b hmem =>
    hb b (List.mem_of_mem_filter hmem)
  refine yields_map (yields_mono (fun front hfront => ⟨front, rfl, hfront⟩) ?_)
  split
  · exact restuffFd_inherits hP r hl
  · exact restuffClassical_inherits hP r hl

end

end Sys2Proof.Invariant
end

section
/-! The bits of a built slot, and what the bodies of the commands that edit them answer (41_bit_timing R180 to R188,
42_encoder R233, R234, 44_structural, 45_protocol_faults R311, R317). -/

namespace Sys2Proof.Invariant

open Sys2Proof.Machine Sys2Proof.Laws

/-! ### Bodies that edit one bit -/

theorem lengthenBit_wf {c : Config.Params} {sn : Snap} {b : BitRec} (hsn : sn.Wf c) (hb : b.Wf c) (p : Phase) (n : Nat) :
    Yields (lengthenBit c sn b p n) (BitRec.Wf c) := by
  refine yields_check fun h => ?_
  obtain ⟨hn, hlen⟩ := not_or.mp h
  exact yields_ok <| wf_addTqs hb (by omega) fun hn0 => newTq_wf (timing_brp_pos hsn b.tag p) (by omega)

theorem shortenBit_wf {c : Config.Params} {b : BitRec} (hb : b.Wf c) (p : Phase) (n : Nat) :
    Yields (shortenBit b p n) (BitRec.Wf c) :=
  yields_check fun _ => yields_ok (wf_sublist hb (dropLastsOf_sublist p n b.tqs))

theorem resyncBit_wf {c : Config.Params} {sn : Snap} {b : BitRec} (hsn : sn.Wf c) (hb : b.Wf c) (e : Int) :
    Yields (resyncBit c sn b e) (BitRec.Wf c) := by
  unfold resyncBit
  split
  · exact lengthenBit_wf hsn hb _ _
  · split
    · exact shortenBit_wf hb _ _
    · exact yields_ok hb

/-- Where a bit has no Ph2 quantum, one put at its end is one added to that phase. -/
theorem addTqs_ph2_of_empty {b : BitRec} (h : b.last .ph2 = none) (len : Nat) :
    b.addTqs .ph2 1 len = { b with tqs := b.tqs ++ [newTq .ph2 len] } := by
  have hnone := List.countP_eq_zero.mp (last_none.mp h)
  have hall : b.insertPoint .ph2 = b.tqs.length := by
    rw [BitRec.insertPoint, h]
    refine List.countP_eq_length.mpr fun q hq => ?_
    have := hnone q hq
    cases hp : q.phase <;> simp_all [phaseBefore, Phase.code]
  simp [BitRec.addTqs, hall]

theorem compensateBit_wf {c : Config.Params} {b : BitRec} (hc : c.Legal) (hb : b.Wf c) (d : Nat) :
    Yields (compensateBit c b d) (BitRec.Wf c) := by
  have hflip : b.flip.Wf c := wf_setValue hb _
  unfold compensateBit
  split
  · next k hk =>
    refine yields_check fun hlen => yields_ok ?_
    split
    · exact hflip
    · refine wf_modify hflip (fun _ => rfl) fun q hq hwf => extend_wf hwf ?_
      replace hq : b.tqs[k]? = some q := hq
      simpa [hq] using hlen
  · next hlast =>
    refine yields_check fun hlen => yields_ok ?_
    split
    · exact hflip
    · have hadd : b.flip.addTqs .ph2 1 d = { b.flip with tqs := b.tqs ++ [newTq .ph2 d] } :=
        addTqs_ph2_of_empty (b := b.flip) hlast d
      have hempty : b.flip.count .ph2 = 0 := last_none.mp hlast
      have hmax := hc.maxTqPerPhase.1
      rw [← hadd]
      exact wf_addTqs hflip (by omega) fun _ => newTq_wf (by omega) (by omega)

/-! ### The bits of a slot -/

/-- At most `MAX_BITS` bits, each a good bit record: what a built slot holds (20_memory R67). -/
def GoodBits (c : Config.Params) (bits : List BitRec) : Prop :=
  bits.length ≤ c.maxBits ∧ ∀ b ∈ bits, b.Wf c

/-- A built slot is good where its snapshot and its bits are. -/
theorem wf_iff_of_valid {c : Config.Params} {f : BitFrame} (h : f.valid = true) :
    f.Wf c ↔ f.snap.Wf c ∧ GoodBits c f.bits := by
  rw [BitFrame.Wf, if_pos h, GoodBits]

theorem goodBits_sublist {c : Config.Params} {bits bits' : List BitRec} (h : GoodBits c bits) (hs : bits'.Sublist bits) :
    GoodBits c bits' :=
  ⟨hs.length_le.trans h.1, fun b hb => h.2 b (hs.subset hb)⟩

theorem goodBits_set {c : Config.Params} {bits : List BitRec} {b : BitRec} (h : GoodBits c bits) (hb : b.Wf c) (i : Nat) :
    GoodBits c (bits.set i b) := by
  refine ⟨List.length_set.trans_le h.1, fun x hx => ?_⟩
  obtain hx | rfl := List.mem_or_eq_of_mem_set hx
  · exact h.2 x hx
  · exact hb

/-- Giving bits the values a receiver drives keeps them good (45_protocol_faults R310). -/
theorem goodBits_received {c : Config.Params} {bits : List BitRec} (h : GoodBits c bits) :
    GoodBits c (bits.map BitRec.received) :=
  ⟨List.length_map _ |>.trans_le h.1, List.forall_mem_map.mpr fun b hb => wf_setValue (h.2 b hb) _⟩

theorem goodBits_looseArb {c : Config.Params} {bits : List BitRec} (h : GoodBits c bits) (k : Nat) :
    GoodBits c (bits.take k ++ (bits.drop k).map BitRec.received) := by
  refine ⟨?_, List.forall_mem_append.mpr ⟨fun b hb => h.2 b (List.mem_of_mem_take hb), ?_⟩⟩
  · rw [List.length_append, List.length_map, ← List.length_append, List.take_append_drop]
    exact h.1
  · exact (goodBits_received (goodBits_sublist h (List.drop_sublist k bits))).2

/-- Bits within the capacity check are good where each is good already, or a formed one the check looks at. -/
theorem withinCapacity_good {c : Config.Params} {made bits : List BitRec}
    (h : ∀ b ∈ bits, b.Wf c ∨ (b ∈ made ∧ Formed b)) : Yields (withinCapacity c made bits) (GoodBits c) := by
  intro out hout
  obtain ⟨hlen, hfits, heq⟩ | ⟨-, heq⟩ := withinCapacity_cases c made bits
  · obtain rfl : bits = out := Except.ok.inj (heq.symm.trans hout)
    refine ⟨hlen, fun b hb => ?_⟩
    obtain hwf | ⟨hmade, hformed⟩ := h b hb
    · exact hwf
    · exact wf_iff_formed_fits.mpr ⟨hformed, hfits b hmade⟩
  · cases heq.symm.trans hout

/-- Fresh bits put behind good ones, within the capacity check. -/
theorem withinCapacity_append_good {c : Config.Params} {made bits : List BitRec} (h : ∀ b ∈ bits, b.Wf c)
    (hm : ∀ b ∈ made, Formed b) : Yields (withinCapacity c made (bits ++ made)) (GoodBits c) :=
  withinCapacity_good <| List.forall_mem_append.mpr ⟨fun b hb => .inl (h b hb), fun b hb => .inr ⟨hb, hm b hb⟩⟩

theorem insertAt_good {c : Config.Params} {made bits : List BitRec} {x : BitRec} (p : Word) (h : GoodBits c bits)
    (hx : x.Wf c ∨ (x ∈ made ∧ Formed x)) : Yields (insertAt c made bits p x) (GoodBits c) := by
  refine yields_check fun hp => withinCapacity_good fun b hb => ?_
  obtain rfl | hb := (List.mem_insertIdx (by omega)).mp hb
  · exact hx
  · exact .inl (h.2 b hb)

theorem insFrame_good {c : Config.Params} {f : BitFrame} (hsn : f.snap.Wf c) (h : GoodBits c f.bits) (p : Nat)
    (ft : Tag) (fv : Level) (dt : Tag) : Yields (insFrame c f p ft fv dt) (GoodBits c) := by
  refine yields_check fun _ => withinCapacity_append_good (fun b hb => h.2 b (List.mem_of_mem_take hb)) fun b hb => ?_
  simp only [List.mem_append, List.mem_replicate] at hb
  obtain (⟨-, rfl⟩ | ⟨-, rfl⟩) | ⟨-, rfl⟩ := hb <;> exact newBit_formed hsn _ _

/-! ### BUILD and UPDATE -/

theorem formed_inherited {c : Config.Params} {sn : Snap} (h : sn.Wf c) : Inherited sn Formed where
  value _ v hb := formed_setValue hb v
  regular b v _ := stuffBit_formed h b.tag v nofun
  fixed b v _ _ := stuffBit_formed h b.tag v fun _ => rfl

/-- What BUILD asks of the timing registers and the frame slot makes its snapshot a good one (42_encoder R233). -/
theorem snapOf_wf {c : Config.Params} {nbt dbt : BitTiming} {fr : Frame} (hn : nbt.Wf c) (hd : dbt.Wf c) (hfr : fr.Wf)
    (hnv : nbt.valid = true) (hdv : fr.flags.fdf = true → fr.flags.brs = true → dbt.valid = true)
    (hid : fr.flags.ide = false → fr.id.toNat < 2 ^ 11) : (snapOf fr nbt dbt).Wf c :=
  ⟨hfr.1, hfr.2, hid, ⟨hnv, hn⟩, hdv, hd⟩

/-- BUILD checks what its snapshot must meet, and every bit it makes. -/
theorem buildSlot_wf {c : Config.Params} {nbt dbt : BitTiming} {fr : Frame} (hn : nbt.Wf c) (hd : dbt.Wf c) (hfr : fr.Wf) :
    Yields (buildSlot c nbt dbt fr) (BitFrame.Wf c) := by
  refine yields_check fun hnv => yields_check fun hdv => yields_check fun hid => ?_
  extract_lets sn
  have hsn : sn.Wf c := snapOf_wf hn hd hfr (by simpa using hnv) (by simpa using hdv) (by simpa using hid)
  have hlogical : ∀ b ∈ logicalFrame sn fr, Formed b := fun b hb => by
    obtain ⟨t, v, rfl⟩ := logicalFrame_emitted sn fr b hb
    exact newBit_formed hsn t v
  refine yields_bind <| yields_mono ?_ <| restuff_inherits (formed_inherited hsn) true fun b hb =>
    hlogical b ((List.takeWhile_sublist _).subset hb)
  rintro bits ⟨front, rfl, hfront⟩
  have hformed : ∀ b ∈ front ++ (logicalFrame sn fr).dropWhile fun b => b.tag.inFrame, Formed b :=
    List.forall_mem_append.mpr ⟨hfront, fun b hb => hlogical b ((List.dropWhile_sublist _).subset hb)⟩
  exact yields_map <| yields_mono (fun bits hbits => (wf_iff_of_valid rfl).mpr ⟨hsn, hbits⟩) <|
    withinCapacity_good fun b hb => .inr ⟨hb, hformed b hb⟩

/-- A bit of the frame part that is formed, and within the bounds unless it is a stuff bit, which UPDATE checks. -/
def UpdateReady (c : Config.Params) (b : BitRec) : Prop :=
  b.tag.inFrame = true ∧ Formed b ∧ (b.isStuff = true ∨ b.Wf c)

theorem updateReady_inherited {c : Config.Params} {sn : Snap} (h : sn.Wf c) : Inherited sn (UpdateReady c) where
  value _ v := fun ⟨ht, hf, hw⟩ => ⟨ht, formed_setValue hf v, hw.imp_right fun hw => wf_setValue hw v⟩
  regular b v := fun ⟨ht, _, _⟩ => ⟨ht, stuffBit_formed h b.tag v nofun, .inl rfl⟩
  fixed b v _ := fun ⟨ht, _, _⟩ => ⟨ht, stuffBit_formed h b.tag v fun _ => rfl, .inl rfl⟩

/-- UPDATE checks every stuff bit it makes; the other bits are those of the slot, but for values. -/
theorem update_good {c : Config.Params} {sn : Snap} {bits : List BitRec} (hsn : sn.Wf c) (h : GoodBits c bits) (r : Bool) :
    Yields (restuff sn r bits) fun out => Yields (withinCapacity c (rebuiltStuff out) out) (GoodBits c) := by
  refine yields_mono ?_ <| restuff_inherits (updateReady_inherited hsn) r fun b hb =>
    have hwf := h.2 b ((List.takeWhile_sublist _).subset hb)
    ⟨List.mem_takeWhile_imp (p := fun b : BitRec => b.tag.inFrame) hb, (wf_iff_formed_fits.mp hwf).1, .inr hwf⟩
  rintro out ⟨front, rfl, hfront⟩
  refine withinCapacity_good <| List.forall_mem_append.mpr ⟨fun b hb => ?_, fun b hb => ?_⟩
  · obtain ⟨-, hformed, hstuff | hwf⟩ := hfront b hb
    · refine .inr ⟨List.mem_filter.mpr ⟨?_, hstuff⟩, hformed⟩
      rw [List.takeWhile_append_of_pos fun x hx => (hfront x hx).1]
      exact List.mem_append_left _ hb
    · exact .inl hwf
  · exact .inl (h.2 b ((List.dropWhile_sublist _).subset hb))

end Sys2Proof.Invariant
end

section
/-! Timing registers, frame slots and the status: what SET_NBT, SET_DBT, the frame commands and the status operations store
is good (40_config_frame R130 to R141, 10_state R26, 60_exceptions R340, R341). -/

namespace Sys2Proof.Invariant

open Sys2Proof.Machine Sys2Proof.Laws

/-! ### Timing registers -/

/-- A valid timing register is good where its timing is legal and fits its fields. -/
theorem timing_wf_iff_of_valid {c : Config.Params} {t : BitTiming} (h : t.valid = true) :
    t.Wf c ↔ t.legal = true ∧ t.fits c.timingWidth = true := by
  rw [BitTiming.Wf, if_pos h]
  simp [BitTiming.legal, BitTiming.fits, and_assoc]

/-- `TimingCheck` admits legal timings only, and marks them valid (40_config_frame R130, R132). -/
theorem timingOf_legal (a r : Word) : Yields (timingOf a r) fun t => t.valid = true ∧ t.legal = true := by
  refine yields_check fun hsjw => yields_check fun hbrp => ?_
  have hlow : (r.extractLsb' 0 8).toNat = r.toNat := by
    rw [BitVec.extractLsb'_toNat, Nat.shiftRight_zero, Nat.mod_eq_of_lt (by omega)]
  refine yields_ok ⟨rfl, ?_⟩
  simp only [BitTiming.legal, Bool.and_eq_true, decide_eq_true_eq, hlow]
  omega

/-- What NBT or DBT holds once a legal timing is written to it is good, whatever the width of the fields. -/
theorem storedTiming_wf {s : State} {t : BitTiming} (h : s.params.Legal) (hv : t.valid = true) (hl : t.legal = true) :
    (s.storedTiming t).Wf s.params := by
  obtain ⟨hvalid, -, -, -, -, -, hfits, hlegal⟩ := stored_spec (w := s.params.timingWidth) t s.draws
  exact (timing_wf_iff_of_valid (hvalid.trans hv)).mpr ⟨hlegal h.timingWidth.1 hl, hfits⟩

/-! ### Frame slots -/

theorem normalize_legal (f : FrameFlags) : f.normalize.Legal := by
  cases h : f.fdf <;> simp [FrameFlags.Legal, FrameFlags.normalize, h]

/-- The data length of the DLC that `LenToDlc` gives is the length asked for (40_config_frame R135, R136). -/
theorem dlcToLen_of_lenToDlc {n : Nat} {fdf : Bool} {dlc : BitVec 4} (h : lenToDlc n fdf = some dlc) :
    BitVec.ofNat 7 n = dlcToLen dlc fdf := by
  unfold lenToDlc at h
  split at h
  · next hn =>
    cases h
    interval_cases n <;> rfl
  · split at h
    · next hfdf =>
      subst hfdf
      split at h <;> cases h <;> rfl
    · cases h

/-- A frame operation that keeps a good frame slot good and does not touch the bytes beyond the data window. -/
structure FrameKeeps (fr fr' : Frame) : Prop where
  wf    : fr.Wf → fr'.Wf
  spare : fr'.spare = fr.spare

theorem FrameKeeps.trans {a b c : Frame} (h : FrameKeeps a b) (h' : FrameKeeps b c) : FrameKeeps a c :=
  ⟨h'.wf ∘ h.wf, h'.spare.trans h.spare⟩

/-- SET_FLAGS stores legal flags, and the DLEN of the DLC with them (40_config_frame R134). -/
theorem withFlags_keeps (fr : Frame) (f : FrameFlags) : FrameKeeps fr (fr.withFlags f.normalize) :=
  ⟨fun _ => ⟨normalize_legal f, rfl⟩, rfl⟩

theorem drawDlc_keeps (fr : Frame) (k : Nat) : FrameKeeps fr (fr.drawDlc k) :=
  ⟨fun h => ⟨h.1, rfl⟩, rfl⟩

theorem drawId_keeps (fr : Frame) (k : Nat) : FrameKeeps fr (fr.drawId k) := by
  unfold Frame.drawId
  split <;> exact ⟨fun h => ⟨h.1, h.2⟩, rfl⟩

theorem drawData_keeps (fr : Frame) (k : Nat) : FrameKeeps fr (fr.drawData k) := by
  unfold Frame.drawData
  split <;> exact ⟨fun h => ⟨h.1, h.2⟩, rfl⟩

/-! ### Status -/

theorem code_ne_zero (e : Err) : e.code ≠ 0 := by cases e <;> decide

theorem code_le (e : Err) : e.code.toNat ≤ 0x0D := by cases e <;> decide

theorem raised_wf {st : Status} (e : Err) : ({ st with err := true, ecode := e.code } : Status).Wf :=
  ⟨iff_of_true rfl (code_ne_zero e), code_le e⟩

theorem cleared_wf {st : Status} (v : Word) (h : st.Wf) : (st.cleared v).Wf := by
  cases hv : v.getLsbD 0
  · simpa only [Status.Wf, Status.cleared, hv, Bool.not_false, Bool.and_true, Bool.false_eq_true, if_false] using h
  · simp [Status.Wf, Status.cleared, hv]

end Sys2Proof.Invariant
end

section
/-! Every command keeps the parameters and the invariant: one rule for each way a command writes the state, then one line
for each command. -/

namespace Sys2Proof.Invariant

open Sys2Proof.Machine Sys2Proof.Laws

/-- `t` has the parameters of `s`, and meets the invariant where `s` does. -/
structure Keeps (s t : State) : Prop where
  params : t.params = s.params
  inv    : s.Inv → t.Inv

/-- Every next state of an outcome of `s` keeps what `s` has. -/
def NextKeeps (s : State) (o : Host.Outcome State Fault Refusal) : Prop :=
  ∀ t, o = .next t → Keeps s t

/-! ### Writes to the state -/

theorem keeps_refl (s : State) : Keeps s s := ⟨rfl, id⟩

theorem Keeps.trans {s t u : State} (h : Keeps s t) (h' : Keeps t u) : Keeps s u :=
  ⟨h'.params.trans h.params, h'.inv ∘ h.inv⟩

/-- The invariant speaks of no more than the parameters, the status, the timing registers and the slots. -/
theorem keeps_of_eq {s t : State} (hp : t.params = s.params) (hs : t.status = s.status) (hn : t.nbt = s.nbt)
    (hd : t.dbt = s.dbt) (hf : t.frames = s.frames) (hb : t.bfs = s.bfs) : Keeps s t := by
  refine ⟨hp, fun h => ?_⟩
  obtain ⟨hparams, hstatus, hnbt, hdbt, hframes, hslots⟩ := h
  constructor
  all_goals simp only [State.frame, State.slot, hp, hs, hn, hd, hf, hb]
  all_goals assumption

theorem keeps_setResult0 (s : State) (v : Word) : Keeps s (s.setResult0 v) :=
  keeps_of_eq rfl rfl rfl rfl rfl rfl

theorem keeps_setResults (s : State) (v0 v1 : Word) : Keeps s (s.setResults v0 v1) :=
  keeps_of_eq rfl rfl rfl rfl rfl rfl

theorem keeps_status {s : State} {st : Status} (h : s.status.Wf → st.Wf) : Keeps s { s with status := st } :=
  ⟨rfl, fun hs => { hs with status := h hs.status }⟩

theorem keeps_raise (s : State) (e : Err) : Keeps s (raise s e) :=
  keeps_status fun _ => raised_wf e

theorem keeps_dropCommand (s : State) : Keeps s (dropCommand s) :=
  keeps_status id

theorem keeps_clearStatus (s : State) (v : Word) : Keeps s (clearStatus s v) :=
  keeps_status (cleared_wf v)

theorem keeps_nbt {s : State} {tm : BitTiming} {k : Nat} (h : s.params.Legal → tm.Wf s.params) :
    Keeps s { s with nbt := tm, draws := k } :=
  ⟨rfl, fun hs => { hs with nbt := h hs.params }⟩

theorem keeps_dbt {s : State} {tm : BitTiming} {k : Nat} (h : s.params.Legal → tm.Wf s.params) :
    Keeps s { s with dbt := tm, draws := k } :=
  ⟨rfl, fun hs => { hs with dbt := h hs.params }⟩

theorem keeps_setFrame {s : State} {fs : FsIx} {fr : Frame} (h : FrameKeeps (s.frame fs) fr) :
    Keeps s (s.setFrame fs fr) := by
  refine ⟨rfl, fun hs => { hs with frames := fun k => ?_ }⟩
  obtain rfl | hk := eq_or_ne k fs
  · rw [frame_setFrame_same, h.spare]
    exact (hs.frames k).imp_left h.wf
  · rw [frame_setFrame_ne s fs k fr hk]
    exact hs.frames k

theorem keeps_setSlot {s : State} {bf : BfIx} {f : BitFrame} (h : s.Inv → f.Wf s.params) : Keeps s (s.setSlot bf f) := by
  refine ⟨rfl, fun hs => { hs with slots := fun k => ?_ }⟩
  obtain rfl | hk := eq_or_ne k bf
  · rw [slot_setSlot_same]
    exact h hs
  · rw [slot_setSlot_ne s bf k f hk]
    exact hs.slots k

/-- A built slot of a good state has a good snapshot and good bits. -/
theorem slot_good {s : State} {bf : BfIx} (h : s.Inv) (hv : (s.slot bf).valid = true) :
    (s.slot bf).snap.Wf s.params ∧ GoodBits s.params (s.slot bf).bits :=
  (wf_iff_of_valid hv).mp (h.slots bf)

theorem keeps_setBits {s : State} {bf : BfIx} {bits : List BitRec} (hv : (s.slot bf).valid = true)
    (h : s.Inv → GoodBits s.params bits) : Keeps s (s.setBits bf bits) :=
  keeps_setSlot fun hs => (wf_iff_of_valid (f := { s.slot bf with bits := bits }) hv).mpr ⟨(slot_good hs hv).1, h hs⟩

theorem keeps_setBit {s : State} {bf : BfIx} {i : Word} {b b' : BitRec} (hv : (s.slot bf).valid = true)
    (hb : (s.slot bf).bits[i.toNat]? = some b)
    (h : s.Inv → (s.slot bf).snap.Wf s.params → b.Wf s.params → b'.Wf s.params) : Keeps s (s.setBit bf i b') :=
  keeps_setBits hv fun hs =>
    have ⟨hsnap, hbits⟩ := slot_good hs hv
    goodBits_set hbits (h hs hsnap (hbits.2 b (List.mem_of_getElem? hb))) _

/-! ### Commands -/

/-- A command keeps what the state its body answers keeps. -/
theorem command_keeps {s : State} {body : Except Err State} (h : Yields body (Keeps s)) : NextKeeps s (command s body) := by
  intro t ht
  obtain ⟨-, rfl⟩ | ⟨-, hok⟩ | ⟨-, e, -, rfl⟩ := command_cases ht
  · exact keeps_dropCommand s
  · exact h t hok
  · exact keeps_raise s e

/-- A command on a slot that answers new bits for it. -/
theorem yields_setBits {s : State} {bf : BfIx} {x : Except Err (List BitRec)} (hv : (s.slot bf).valid = true)
    (h : s.Inv → Yields x (GoodBits s.params)) : Yields (x.map fun bits => s.setBits bf bits) (Keeps s) :=
  yields_map fun bits hbits => keeps_setBits hv fun hs => h hs bits hbits

/-- A command on a bit of a slot that answers a new bit in its place. -/
theorem yields_setBit {s : State} {bf : BfIx} {i : Word} {b : BitRec} {x : Except Err BitRec}
    (hv : (s.slot bf).valid = true) (hb : (s.slot bf).bits[i.toNat]? = some b)
    (h : s.Inv → (s.slot bf).snap.Wf s.params → b.Wf s.params → Yields x (BitRec.Wf s.params)) :
    Yields (x.map fun b' => s.setBit bf i b') (Keeps s) :=
  yields_map fun b' hb' => keeps_setBit hv hb fun hs hsnap hwf => h hs hsnap hwf b' hb'

/-- A query that answers one number. -/
theorem yields_result0 {s : State} {α : Type} (x : Except Err α) (g : α → Word) :
    Yields (x.map fun a => s.setResult0 (g a)) (Keeps s) :=
  yields_map fun a _ => keeps_setResult0 s (g a)

/-! #### Timing registers and frame slots -/

theorem execSetNbt_keeps (s : State) : NextKeeps s (execSetNbt s) :=
  command_keeps <| yields_map <| yields_mono (fun _ ⟨hv, hl⟩ => keeps_nbt fun hp => storedTiming_wf hp hv hl)
    (timingOf_legal _ _)

theorem execSetDbt_keeps (s : State) : NextKeeps s (execSetDbt s) :=
  command_keeps <| yields_map <| yields_mono (fun _ ⟨hv, hl⟩ => keeps_dbt fun hp => storedTiming_wf hp hv hl)
    (timingOf_legal _ _)

theorem execSetFlags_keeps (fs : FsIx) (s : State) : NextKeeps s (execSetFlags fs s) :=
  command_keeps <| yields_check fun _ => yields_ok <|
    (keeps_setFrame (withFlags_keeps _ _)).trans (keeps_status (st := s.status.warned _) id)

theorem execSetDlc_keeps (fs : FsIx) (s : State) : NextKeeps s (execSetDlc fs s) :=
  command_keeps <| yields_check fun _ => yields_ok <| keeps_setFrame ⟨fun h => ⟨h.1, rfl⟩, rfl⟩

theorem execSetDlen_keeps (fs : FsIx) (s : State) : NextKeeps s (execSetDlen fs s) := by
  refine command_keeps ?_
  dsimp only
  split
  · exact yields_error
  · next hdlc => exact yields_ok <| keeps_setFrame ⟨fun h => ⟨h.1, dlcToLen_of_lenToDlc hdlc⟩, rfl⟩

theorem execSetId_keeps (fs : FsIx) (s : State) : NextKeeps s (execSetId fs s) :=
  command_keeps <| yields_check fun _ => yields_check fun _ => yields_ok <| keeps_setFrame ⟨fun h => ⟨h.1, h.2⟩, rfl⟩

theorem execRandomize_keeps (fs : FsIx) (s : State) : NextKeeps s (execRandomize fs s) :=
  command_keeps <| yields_ok <|
    (keeps_setFrame <| (drawDlc_keeps _ _).trans ((drawId_keeps _ _).trans (drawData_keeps _ _))).trans
      (keeps_of_eq rfl rfl rfl rfl rfl rfl)

theorem execLenToDlc_keeps (flag : Bool) (s : State) : NextKeeps s (execLenToDlc flag s) := by
  refine command_keeps ?_
  split
  · exact yields_error
  · exact yields_ok (keeps_setResult0 s _)

/-! #### The encoder -/

theorem execBuild_keeps (bf : BfIx) (fs : FsIx) (s : State) : NextKeeps s (execBuild bf fs s) :=
  command_keeps <| yields_map fun f hf => keeps_setSlot fun hs => buildSlot_wf hs.nbt hs.dbt (hs.frames fs).1 f hf

theorem execUpdate_keeps (bf : BfIx) (flag : Bool) (s : State) : NextKeeps s (execUpdate bf flag s) :=
  command_keeps <| yields_withSlot fun hv => yields_bind fun out hout => yields_setBits hv fun hs =>
    have ⟨hsnap, hbits⟩ := slot_good hs hv
    update_good hsnap hbits flag out hout

/-! #### Queries -/

theorem execGetRandomBitOf_keeps (bf : BfIx) (t : Tag) (v : Option Level) (s : State) :
    NextKeeps s (execGetRandomBitOf bf t v s) := by
  refine command_keeps <| yields_withSlot fun _ => ?_
  dsimp only
  split
  · exact yields_error
  · exact yields_ok <| keeps_of_eq rfl rfl rfl rfl rfl rfl

theorem execFirstTq_keeps (bf : BfIx) (p : Phase) (s : State) : NextKeeps s (execFirstTq bf p s) := by
  refine command_keeps <| yields_withSlot fun _ => yields_withBit fun _ _ => ?_
  split
  · exact yields_error
  · exact yields_ok (keeps_setResult0 s _)

theorem execLastTq_keeps (bf : BfIx) (p : Phase) (s : State) : NextKeeps s (execLastTq bf p s) := by
  refine command_keeps <| yields_withSlot fun _ => yields_withBit fun _ _ => ?_
  split
  · exact yields_error
  · exact yields_ok (keeps_setResult0 s _)

theorem execPrevPhase_keeps (bf : BfIx) (p : Phase) (s : State) : NextKeeps s (execPrevPhase bf p s) := by
  refine command_keeps <| yields_withSlot fun _ => yields_withBit fun _ _ => ?_
  split
  · exact yields_error
  · exact yields_ok (keeps_setResult0 s _)

/-! #### Structural commands -/

theorem execInsertBit_keeps (bf : BfIx) (t : Tag) (v : Level) (s : State) : NextKeeps s (execInsertBit bf t v s) :=
  command_keeps <| yields_withSlot fun hv => yields_setBits hv fun hs =>
    have ⟨hsnap, hbits⟩ := slot_good hs hv
    insertAt_good _ hbits (.inr ⟨List.mem_singleton_self _, newBit_formed hsnap t v⟩)

theorem execInsertBitCopy_keeps (bf bf2 : BfIx) (s : State) : NextKeeps s (execInsertBitCopy bf bf2 s) :=
  command_keeps <| yields_withSlot fun hv => yields_withSlot fun hv2 => yields_withBit fun x hx =>
    yields_setBits hv fun hs => insertAt_good _ (slot_good hs hv).2 (.inl ((slot_good hs hv2).2.2 x (List.mem_of_getElem? hx)))

theorem execRemoveBit_keeps (bf : BfIx) (flag : Bool) (field : Option Tag) (s : State) :
    NextKeeps s (execRemoveBit bf flag field s) := by
  refine command_keeps <| yields_withSlot fun hv => ?_
  have herase : ∀ p, Keeps s (s.setBits bf ((s.slot bf).bits.eraseIdx p)) := fun p =>
    keeps_setBits hv fun hs => goodBits_sublist (slot_good hs hv).2 (List.eraseIdx_sublist _ p)
  match flag, field with
  | false, some _ => exact yields_error
  | false, none => exact yields_withBit fun _ _ => yields_ok (herase _)
  | true, none => exact yields_error
  | true, some _ => exact yields_map fun p _ => herase p

theorem execAppendBit_keeps (bf : BfIx) (t : Tag) (v : Level) (s : State) : NextKeeps s (execAppendBit bf t v s) :=
  command_keeps <| yields_withSlot fun hv => yields_setBits hv fun hs =>
    have ⟨hsnap, hbits⟩ := slot_good hs hv
    withinCapacity_append_good hbits.2 fun _ hb => List.mem_singleton.mp hb ▸ newBit_formed hsnap t v

theorem execAppendBf_keeps (bf bf2 : BfIx) (s : State) : NextKeeps s (execAppendBf bf bf2 s) :=
  command_keeps <| yields_withSlot fun hv => yields_withSlot fun hv2 => yields_setBits hv fun hs =>
    withinCapacity_good fun b hb => .inl <|
      (List.mem_append.mp hb).elim ((slot_good hs hv).2.2 b) ((slot_good hs hv2).2.2 b)

theorem execRemoveBitsFrom_keeps (bf : BfIx) (s : State) : NextKeeps s (execRemoveBitsFrom bf s) :=
  command_keeps <| yields_withSlot fun hv => yields_check fun _ => yields_ok <|
    keeps_setBits hv fun hs => goodBits_sublist (slot_good hs hv).2 (List.take_sublist _ _)

/-! #### Protocol faults -/

theorem execTurnRx_keeps (bf : BfIx) (s : State) : NextKeeps s (execTurnRx bf s) :=
  command_keeps <| yields_withSlot fun hv => yields_ok <| keeps_setBits hv fun hs =>
    goodBits_received (slot_good hs hv).2

/-- INS_ACT_ERR, INS_PAS_ERR and INS_OVR are one command but for two tags and a value (45_protocol_faults R311). -/
theorem insFrame_keeps (bf : BfIx) (ft : Tag) (fv : Level) (dt : Tag) (s : State) :
    NextKeeps s <| command s <| withSlot s bf fun f =>
      (insFrame s.params f s.arg0.toNat ft fv dt).map fun bits => s.setBits bf bits :=
  command_keeps <| yields_withSlot fun hv => yields_setBits hv fun hs =>
    have ⟨hsnap, hbits⟩ := slot_good hs hv
    insFrame_good hsnap hbits _ ft fv dt

theorem execLooseArb_keeps (bf : BfIx) (s : State) : NextKeeps s (execLooseArb bf s) :=
  command_keeps <| yields_withSlot fun hv => yields_withBit fun _ _ => yields_ok <| keeps_setBits hv fun hs =>
    goodBits_looseArb (slot_good hs hv).2 _

theorem execFlipBit_keeps (bf : BfIx) (s : State) : NextKeeps s (execFlipBit bf s) :=
  command_keeps <| yields_withSlot fun hv => yields_withBit fun _ hb => yields_ok <|
    keeps_setBit hv hb fun _ _ hwf => wf_setValue hwf _

theorem execFlipComp_keeps (bf : BfIx) (s : State) : NextKeeps s (execFlipComp bf s) :=
  command_keeps <| yields_withSlot fun hv => yields_withBit fun _ hb =>
    yields_setBit hv hb fun hs _ hwf => compensateBit_wf hs.params hwf _

theorem execAppendSuspend_keeps (bf : BfIx) (s : State) : NextKeeps s (execAppendSuspend bf s) :=
  command_keeps <| yields_withSlot fun hv => yields_setBits hv fun hs =>
    have ⟨hsnap, hbits⟩ := slot_good hs hv
    withinCapacity_append_good hbits.2 fun _ hb => List.eq_of_mem_replicate hb ▸ newBit_formed hsnap _ _

/-! #### Time quanta -/

theorem execLengthen_keeps (bf : BfIx) (p : Phase) (s : State) : NextKeeps s (execLengthen bf p s) :=
  command_keeps <| yields_withSlot fun hv => yields_withBit fun _ hb =>
    yields_setBit hv hb fun _ hsnap hwf => lengthenBit_wf hsnap hwf p _

theorem execShorten_keeps (bf : BfIx) (p : Phase) (s : State) : NextKeeps s (execShorten bf p s) :=
  command_keeps <| yields_withSlot fun hv => yields_withBit fun _ hb =>
    yields_setBit hv hb fun _ _ hwf => shortenBit_wf hwf p _

theorem execForceTq_keeps (bf : BfIx) (flag : Bool) (p : Phase) (v : Level) (s : State) :
    NextKeeps s (execForceTq bf flag p v s) :=
  command_keeps <| yields_withSlot fun hv => yields_withBit fun _ hb => yields_map fun _ _ =>
    keeps_setBit hv hb fun _ _ hwf => wf_modify hwf (fun _ => rfl) fun _ _ hq => forceAll_wf v hq

theorem execForceCycle_keeps (bf : BfIx) (flag : Bool) (p : Phase) (v : Level) (s : State) :
    NextKeeps s (execForceCycle bf flag p v s) :=
  command_keeps <| yields_withSlot fun hv => yields_withBit fun _ hb => yields_bind fun _ _ => yields_withTq fun _ _ =>
    yields_check fun _ => yields_ok <| keeps_setBit hv hb fun _ _ hwf =>
      wf_modify hwf (fun _ => rfl) fun _ _ hq => forceCyc_wf _ v hq

theorem execResync_keeps (bf : BfIx) (s : State) : NextKeeps s (execResync bf s) :=
  command_keeps <| yields_withSlot fun hv => yields_withBit fun _ hb => yields_map fun b' hb' =>
    (keeps_setBit hv hb fun _ hsnap hwf => resyncBit_wf hsnap hwf _ b' hb').trans (keeps_setResult0 _ _)

/-! #### All commands -/

/-- Every command keeps the parameters and the invariant. -/
theorem exec_keeps (s : State) : (i : Instr) → NextKeeps s (exec i s)
  | .nop => command_keeps <| yields_ok (keeps_refl s)
  | .setNbt => execSetNbt_keeps s
  | .setDbt => execSetDbt_keeps s
  | .setFlags fs => execSetFlags_keeps fs s
  | .setDlc fs => execSetDlc_keeps fs s
  | .setDlen fs => execSetDlen_keeps fs s
  | .setId fs => execSetId_keeps fs s
  | .randomize fs => execRandomize_keeps fs s
  | .frameEq => command_keeps <| yields_ok (keeps_setResult0 s _)
  | .dlcToLen _ => command_keeps <| yields_check fun _ => yields_ok (keeps_setResult0 s _)
  | .lenToDlc flag => execLenToDlc_keeps flag s
  | .build bf fs => execBuild_keeps bf fs s
  | .update bf flag => execUpdate_keeps bf flag s
  | .readLen _ => command_keeps <| yields_withSlot fun _ => yields_ok (keeps_setResult0 s _)
  | .readBit _ => command_keeps <| yields_withSlot fun _ => yields_withBit fun _ _ => yields_ok (keeps_setResults s _ _)
  | .readTq _ => command_keeps <| yields_withSlot fun _ => yields_withBit fun _ _ => yields_withTq fun _ _ =>
      yields_ok (keeps_setResults s _ _)
  | .readCycle _ => command_keeps <| yields_withSlot fun _ => yields_withBit fun _ _ => yields_withTq fun _ _ =>
      yields_check fun _ => yields_ok (keeps_setResult0 s _)
  | .bitCycles _ => command_keeps <| yields_withSlot fun _ => yields_withBit fun _ _ => yields_ok (keeps_setResult0 s _)
  | .getBitOf _ _ => command_keeps <| yields_withSlot fun _ => yields_result0 _ _
  | .getBitOfNs _ _ => command_keeps <| yields_withSlot fun _ => yields_result0 _ _
  | .getRandomBitOf bf t v => execGetRandomBitOf_keeps bf t v s
  | .getStuffBit _ _ _ => command_keeps <| yields_withSlot fun _ => yields_result0 _ _
  | .getBitIndex _ => command_keeps <| yields_withSlot fun _ => yields_withBit fun _ _ => yields_ok (keeps_setResult0 s _)
  | .getNumStuff _ _ _ _ => command_keeps <| yields_withSlot fun _ => yields_ok (keeps_setResult0 s _)
  | .insertBit bf t v => execInsertBit_keeps bf t v s
  | .insertBitCopy bf bf2 => execInsertBitCopy_keeps bf bf2 s
  | .removeBit bf flag field => execRemoveBit_keeps bf flag field s
  | .appendBit bf t v => execAppendBit_keeps bf t v s
  | .appendBf bf bf2 => execAppendBf_keeps bf bf2 s
  | .removeBitsFrom bf => execRemoveBitsFrom_keeps bf s
  | .turnRx bf => execTurnRx_keeps bf s
  | .insActErr bf => insFrame_keeps bf _ _ _ s
  | .insPasErr bf => insFrame_keeps bf _ _ _ s
  | .insOvr bf => insFrame_keeps bf _ _ _ s
  | .looseArb bf => execLooseArb_keeps bf s
  | .flipBit bf => execFlipBit_keeps bf s
  | .flipComp bf => execFlipComp_keeps bf s
  | .appendSuspend bf => execAppendSuspend_keeps bf s
  | .lengthen bf p => execLengthen_keeps bf p s
  | .shorten bf p => execShorten_keeps bf p s
  | .forceTq bf flag p v => execForceTq_keeps bf flag p v s
  | .forceCycle bf flag p v => execForceCycle_keeps bf flag p v s
  | .firstTq bf p => execFirstTq_keeps bf p s
  | .lastTq bf p => execLastTq_keeps bf p s
  | .prevPhase bf p => execPrevPhase_keeps bf p s
  | .resync bf => execResync_keeps bf s

end Sys2Proof.Invariant
end

section
/-! Every step keeps the parameters and the invariant: command words, host writes, the reset input, and so every event the
host port serves (20_memory R61 to R69, 70_reset R370, R371). -/

namespace Sys2Proof.Invariant

open Sys2Proof.Machine Sys2Proof.Laws

theorem nextKeeps_next {s t : State} (h : Keeps s t) : NextKeeps s (.next t) := by
  rintro _ ⟨⟩
  exact h

theorem nextKeeps_fault (s : State) (r : Fault) : NextKeeps s (.fault r) := by
  rintro _ ⟨⟩

theorem nextKeeps_refused (s : State) (r : Refusal) : NextKeeps s (.refused r) := by
  rintro _ ⟨⟩

theorem runWord_keeps (w : Word) (s : State) : NextKeeps s (runWord w s) := by
  unfold runWord
  split
  · exact command_keeps yields_error
  · split
    · exact exec_keeps s _
    · split
      · exact nextKeeps_next (keeps_dropCommand s)
      · exact nextKeeps_refused s _

/-- A host write to a register other than CMD (20_memory R62, R63). -/
theorem writeReg_keeps (s : State) (v : Word) (r : Reg) : Keeps s (writeReg s v r) := by
  cases r
  case statusClr => exact keeps_clearStatus s v
  case rand => exact keeps_setFrame ⟨fun h => ⟨h.1, h.2⟩, rfl⟩
  case data => exact keeps_setFrame ⟨fun h => ⟨h.1, h.2⟩, rfl⟩
  all_goals exact keeps_of_eq rfl rfl rfl rfl rfl rfl

theorem writeAt_keeps (a : Addr) (v : Word) (s : State) : NextKeeps s (writeAt a v s) := by
  unfold writeAt
  split
  · exact runWord_keeps v s
  · exact nextKeeps_next (writeReg_keeps s v _)
  · exact nextKeeps_next (keeps_refl s)

/-- The state a reset leaves in a block with legal parameters meets the invariant (10_state R42). -/
theorem resetAt_inv {c : Config.Params} (h : c.Legal) (k : Nat) : (State.resetAt c k).Inv where
  params := h
  status := by simp [Status.Wf, State.resetAt, Status.reset]
  nbt := rfl
  dbt := rfl
  frames fs := by
    have hfs : (State.resetAt c k).frame fs = Frame.reset c (k + (Config.windowBytes + c.spareBytes) * fs.val) := by
      simp [State.frame, State.resetAt]
    rw [hfs]
    exact ⟨⟨⟨fun _ => rfl, fun _ => ⟨rfl, rfl⟩⟩, rfl⟩, by simp [Frame.reset, State.resetAt]⟩
  slots bf := by
    have hbf : (State.resetAt c k).slot bf = BitFrame.reset := by simp [State.slot, State.resetAt]
    rw [hbf]
    exact rfl

theorem resetEvent_keeps (s : State) : Keeps s (resetEvent s) :=
  Keeps.trans (t := State.resetAt s.params s.draws) ⟨rfl, fun h => resetAt_inv h.params _⟩
    (keeps_of_eq rfl rfl rfl rfl rfl rfl)

theorem serve_keeps (e : HostEvent) (s : State) : NextKeeps s (serve e s) := by
  cases e with
  | read a n =>
    unfold serve
    dsimp only
    split
    · exact nextKeeps_next (keeps_of_eq rfl rfl rfl rfl rfl rfl)
    · exact nextKeeps_fault s _
  | write a n v =>
    unfold serve
    dsimp only
    split
    · exact writeAt_keeps a v s
    · exact nextKeeps_fault s _
  | reset => exact nextKeeps_next (resetEvent_keeps s)

theorem step_keeps (s : State) : NextKeeps s (step s) := by
  unfold step
  split
  · exact nextKeeps_next (keeps_refl s)
  · have hpopped : Keeps s s.popped := keeps_of_eq rfl rfl rfl rfl rfl rfl
    exact fun t ht => hpopped.trans (serve_keeps _ s.popped t ht)

/-- Settles O23: an idle step changes nothing, and every event the host port serves keeps the parameters and the
invariant, a command by the rule of each write it makes. -/
theorem stepKeepsInvariant : Obligations.StepKeepsInvariant :=
  ⟨fun s t hs ht => (step_keeps s t ht).inv hs, fun s t ht => (step_keeps s t ht).params⟩

end Sys2Proof.Invariant
end

section
/-! The host port's side of a command word and of a register access: which register an address reaches, and what a step
with a word written to CMD runs (10_state R24, R28, 20_memory R61 to R63). -/

namespace Sys2Proof.HostSide

open Sys2Proof.Machine Sys2Proof.Laws

/-! ### Register accesses -/

/-- A read at the address of a register gives what the register reads as. -/
theorem readAt_of_regAt {s : State} {a : Addr} (r : Reg) (h : regAt s.params a = some r) : readAt s a = readReg s r := by
  simp [readAt, h]

/-- A write at the address of a register other than CMD leaves what the register's write leaves. -/
theorem writeAt_of_regAt {s : State} {a : Addr} (r : Reg) (v : Word) (h : regAt s.params a = some r) (hr : r ≠ .cmd) :
    writeAt a v s = .next (writeReg s v r) := by
  unfold writeAt
  split
  · next hcmd => exact absurd (Option.some.inj (h.symm.trans hcmd)) hr
  · next r' _ hr' => rw [Option.some.inj (h.symm.trans hr')]
  · next hnone => cases h.symm.trans hnone

/-! ### Command words -/

/-- A word the decoder refuses is a command that fails. -/
theorem runWord_error {s : State} {w : Word} {e : DecodeError} (h : decode w = .error e) :
    runWord w s = command s (.error (decodeErr e)) := by simp [runWord, h]

/-- A step with a write of a word to CMD as the host's next access takes the write off and runs the word. -/
theorem step_cmdWrite {s : State} {w : Word} {rest : List HostEvent} (h : s.pending = cmdWrite w :: rest) :
    step s = runWord w { s with pending := rest } := by
  have hpopped : s.popped = { s with pending := rest } := by simp [State.popped, h]
  have hserve : serve (cmdWrite w) s.popped = runWord w s.popped := rfl
  rw [← hpopped, ← hserve, step, h]

/-- Settles O7: the step runs the word, and what running a word does is said for each answer of the decoder. -/
theorem stepRunsWrittenCommand : Obligations.StepRunsWrittenCommand := by
  intro s w rest hs
  have hrun := step_cmdWrite hs
  refine ⟨fun i hi hb => hrun.trans (runWord_exec hi hb), fun i hc => slotsExist_covers hc w i, fun i hi herr hb => ?_,
    fun e he => hrun.trans (runWord_error he), ?_⟩
  · exact (hrun.trans (runWord_absent hi hb)).trans (if_neg (by simp [herr]))
  · simp [State.withFetchWord, Nat.mod_eq_of_lt w.isLt]

/-! ### STATUS_CLR -/

/-- Clearing a flag by a bit that is 1 for "clear". -/
theorem and_not_eq_ite (a b : Bool) : (a && !b) = if b then false else a := by cases b <;> simp

/-- Settles O17: the write leaves `Status.cleared` in place of the status, whose fields are these. -/
theorem statusClrClearsBits : Obligations.StatusClrClearsBits := fun s v =>
  ⟨readAt_of_regAt .statusClr rfl, s.status.cleared v, writeAt_of_regAt .statusClr v rfl nofun, and_not_eq_ite _ _,
    and_not_eq_ite _ _, and_not_eq_ite _ _, and_not_eq_ite _ _, and_not_eq_ite _ _, rfl⟩

end Sys2Proof.HostSide
end

section
/-! The state after a reset, field by field (10_state R42, 70_reset R370). -/

namespace Sys2Proof.ResetState

open Sys2Proof.Machine Sys2Proof.Laws Sys2Proof.HostSide

/-- Two fields side by side in a word are the field they make together. -/
theorem place_or_place {n m lo hi : Nat} (v : BitVec n) (v' : BitVec m) (h : hi = lo + m) :
    place v hi ||| place v' lo = place (v ++ v') lo := by
  subst h
  apply BitVec.eq_of_getLsbD_eq
  intro i hi32
  simp only [BitVec.getLsbD_or, getLsbD_place, BitVec.getLsbD_append, hi32, decide_true, Bool.true_and, Nat.sub_add_eq]
  by_cases hlo : lo ≤ i
  · by_cases hm : i - lo < m
    · simp [hlo, hm, show ¬ lo + m ≤ i by omega]
    · simp [hlo, hm, show lo + m ≤ i by omega, BitVec.getLsbD_of_ge v' (i - lo) (by omega)]
  · simp [hlo, show ¬ lo + m ≤ i by omega]

/-- CAPS, field by field (10_state R27). -/
theorem capsWord_eq (c : Config.Params) :
    capsWord c = BitVec.ofNat 16 c.maxBits ++ BitVec.ofNat 8 c.frameSlots ++ BitVec.ofNat 8 c.bfSlots := by
  rw [capsWord, place_or_place _ _ (show 16 = 8 + 8 from rfl), place_or_place _ _ (show 8 = 0 + 8 from rfl)]
  simp [place]

/-- STATUS reads 0 after reset (10_state R25). -/
theorem word_reset : Status.reset.word = 0 := by decide

@[simp] theorem frame_resetAt (c : Config.Params) (k : Nat) (fs : FsIx) :
    (State.resetAt c k).frame fs = Frame.reset c (k + (Config.windowBytes + c.spareBytes) * fs.val) := by
  simp [State.frame, State.resetAt]

@[simp] theorem slot_resetAt (c : Config.Params) (k : Nat) (bf : BfIx) :
    (State.resetAt c k).slot bf = BitFrame.reset := by simp [State.slot, State.resetAt]

/-- The number of the draw that byte `j` of frame slot `f` holds after a reset with `k` draws taken before (log entry 5). -/
def resetDraw (c : Config.Params) (k : Nat) (f : FsIx) (j : Nat) : Nat :=
  k + (Config.windowBytes + c.spareBytes) * f.val + j

/-- No two bytes hold the same draw after a reset. -/
theorem resetDraw_inj {c : Config.Params} {k j j' : Nat} {f f' : FsIx} (hj : j < 64 + c.spareBytes)
    (hj' : j' < 64 + c.spareBytes) (h : resetDraw c k f j = resetDraw c k f' j') : f = f' ∧ j = j' := by
  have hpos : 0 < 64 + c.spareBytes := by omega
  have hsum : j + (64 + c.spareBytes) * f.val = j' + (64 + c.spareBytes) * f'.val := by
    simp only [resetDraw, Config.windowBytes] at h
    omega
  have hf := congrArg (· / (64 + c.spareBytes)) hsum
  simp only [Nat.add_mul_div_left _ _ hpos, Nat.div_eq_of_lt hj, Nat.div_eq_of_lt hj', Nat.zero_add] at hf
  obtain rfl := Fin.ext hf
  exact ⟨rfl, by omega⟩

/-- The state a reset leaves holds the reset values (10_state R42). -/
theorem resetAt_asReset (c : Config.Params) (k : Nat) : (State.resetAt c k).AsReset c k where
  params := rfl
  status := (readAt_of_regAt .status rfl).trans word_reset
  args := ⟨rfl, rfl, rfl, rfl⟩
  results := ⟨rfl, rfl⟩
  caps := (readAt_of_regAt .caps rfl).trans (capsWord_eq c)
  nbt := rfl
  dbt := rfl
  frames fs := by
    rw [frame_resetAt]
    exact ⟨rfl, rfl, rfl, rfl, rfl⟩
  data := by
    refine ⟨resetDraw c k, fun f f' j hj j' hj' => resetDraw_inj hj hj', fun f => ⟨fun j => ?_, fun j => ?_, ?_⟩⟩
    · exact (Nat.le_add_right _ _).trans (Nat.le_add_right _ _)
    · simp [Frame.reset, resetDraw]
    · simp [Frame.reset, resetDraw, Nat.add_assoc]
  slots := slot_resetAt c k

/-- So does the state a reset event leaves: what it keeps is not the block's (log entry 9). -/
theorem resetEvent_asReset (s : State) : (resetEvent s).AsReset s.params s.draws :=
  { resetAt_asReset s.params s.draws with }

/-- A step with the reset as the next event leaves what the reset event leaves. -/
theorem step_reset {s : State} {rest : List HostEvent} (h : s.pending = .reset :: rest) :
    step s = .next (resetEvent s.popped) := by simp [step, h, serve]

/-- Settles O21: power-on and the reset event both leave `State.resetAt`, after no draws and after those taken. -/
theorem resetValues : Obligations.ResetValues :=
  ⟨resetAt_asReset _ 0, readAt_of_regAt .caps rfl, fun c => resetAt_asReset c 0,
    fun s _ hs => ⟨_, step_reset hs, resetEvent_asReset s.popped⟩⟩

/-- The parameter values 00_scope R8 decides are legal. -/
theorem standard_legal : Config.Params.standard.Legal := by constructor <;> decide

/-- Settles O22, by the state a reset leaves in a block with legal parameters. -/
theorem resetMeetsInvariant : Obligations.ResetMeetsInvariant :=
  ⟨Invariant.resetAt_inv standard_legal 0, fun _ hc => Invariant.resetAt_inv hc 0⟩

end Sys2Proof.ResetState
end

section
/-! What a command leaves unchanged (30_encoding R93, 60_exceptions R341, R342), by one rule for each way a command writes
the state. -/

namespace Sys2Proof.Effects

open Sys2Proof.Machine Sys2Proof.Laws

/-- What command `i`, from `s` to `t`, leaves unchanged whether it completes, fails or is dropped. -/
structure Leaves (i : Instr) (s t : State) : Prop where
  params   : t.params = s.params
  args     : t.arg0 = s.arg0 ∧ t.arg1 = s.arg1 ∧ t.arg2 = s.arg2 ∧ t.arg3 = s.arg3
  host     : t.pending = s.pending ∧ t.readData = s.readData
  nbt      : i ≠ .setNbt → t.nbt = s.nbt
  dbt      : i ≠ .setDbt → t.dbt = s.dbt
  frames   : ∀ fs, i.touches.frame ≠ some fs → t.frame fs = s.frame fs
  slots    : ∀ bf, i.touches.edits ≠ some bf → t.slot bf = s.slot bf
  built    : (∀ bf fs, i ≠ .build bf fs) →
    ∀ bf, (t.slot bf).valid = (s.slot bf).valid ∧ (t.slot bf).snap = (s.slot bf).snap
  result0  : i.touches.result0 = false → t.result0 = s.result0
  result1  : i.touches.result1 = false → t.result1 = s.result1

/-- What command `i` leaves unchanged where it completes: of the status, all but the warnings SET_FLAGS sets. -/
structure Completes (i : Instr) (s t : State) : Prop extends Leaves i s t where
  err    : t.status.err = s.status.err
  drop   : t.status.drop = s.status.drop
  status : (∀ fs, i ≠ .setFlags fs) → t.status = s.status

theorem leaves_refl (i : Instr) (s : State) : Leaves i s s :=
  ⟨rfl, ⟨rfl, rfl, rfl, rfl⟩, ⟨rfl, rfl⟩, fun _ => rfl, fun _ => rfl, fun _ _ => rfl, fun _ _ => rfl,
    fun _ _ => ⟨rfl, rfl⟩, fun _ => rfl, fun _ => rfl⟩

theorem leaves_raise (i : Instr) (s : State) (e : Err) : Leaves i s (raise s e) :=
  { leaves_refl i s with }

theorem leaves_dropCommand (i : Instr) (s : State) : Leaves i s (dropCommand s) :=
  { leaves_refl i s with }

/-! ### Writes of a command that completes -/

section

variable {i : Instr} {s : State}

theorem completes_refl : Completes i s s :=
  ⟨leaves_refl i s, rfl, rfl, fun _ => rfl⟩

theorem completes_draws {t : State} {k : Nat} (h : Completes i s t) : Completes i s { t with draws := k } :=
  { h with }

theorem completes_setResult0 {t : State} {v : Word} (h : Completes i s t) (hi : i.touches.result0 = true) :
    Completes i s (t.setResult0 v) :=
  { h with result0 := fun h0 => absurd (hi.symm.trans h0) nofun }

theorem completes_result0 {v : Word} (hi : i.touches.result0 = true) : Completes i s (s.setResult0 v) :=
  completes_setResult0 completes_refl hi

theorem completes_results {v0 v1 : Word} (h0 : i.touches.result0 = true) (h1 : i.touches.result1 = true) :
    Completes i s (s.setResults v0 v1) :=
  { completes_refl (i := i) (s := s) with
    result0 := fun h => absurd (h0.symm.trans h) nofun
    result1 := fun h => absurd (h1.symm.trans h) nofun }

theorem completes_setFrame {fs : FsIx} {fr : Frame} (hi : i.touches.frame = some fs) : Completes i s (s.setFrame fs fr) :=
  { completes_refl (i := i) (s := s) with frames := fun k hk => frame_setFrame_ne s fs k fr fun e => hk (e ▸ hi) }

theorem completes_setBits {bf : BfIx} {bits : List BitRec} (hi : i.touches.edits = some bf) :
    Completes i s (s.setBits bf bits) :=
  { completes_refl (i := i) (s := s) with
    slots := fun k hk => slot_setBits_ne s bf k bits fun e => hk (e ▸ hi)
    built := fun _ k => by
      obtain rfl | hk := eq_or_ne k bf
      · rw [slot_setBits_same]; exact ⟨rfl, rfl⟩
      · rw [slot_setBits_ne s bf k bits hk]; exact ⟨rfl, rfl⟩ }

theorem completes_setBit {bf : BfIx} {ix : Word} {b : BitRec} (hi : i.touches.edits = some bf) :
    Completes i s (s.setBit bf ix b) :=
  completes_setBits hi

end

theorem completes_build {bf : BfIx} {fs : FsIx} {s : State} {f : BitFrame} :
    Completes (.build bf fs) s (s.setSlot bf f) :=
  { completes_refl (s := s) with
    slots := fun k hk => slot_setSlot_ne s bf k f fun e => hk (e ▸ rfl)
    built := fun h => absurd rfl (h bf fs) }

theorem completes_setFlags {fs : FsIx} {s : State} {fr : Frame} {f : FrameFlags} :
    Completes (.setFlags fs) s { s.setFrame fs fr with status := s.status.warned f } :=
  { completes_setFrame (i := .setFlags fs) (s := s) (fr := fr) rfl with
    err := rfl
    drop := rfl
    status := fun h => absurd rfl (h fs) }

theorem completes_nbt {s : State} {tm : BitTiming} {k : Nat} : Completes .setNbt s { s with nbt := tm, draws := k } :=
  { completes_refl (i := .setNbt) (s := s) with nbt := fun h => absurd rfl h }

theorem completes_dbt {s : State} {tm : BitTiming} {k : Nat} : Completes .setDbt s { s with dbt := tm, draws := k } :=
  { completes_refl (i := .setDbt) (s := s) with dbt := fun h => absurd rfl h }

end Sys2Proof.Effects
end

section
/-! The commands on bit-frame slots, one line each. Their bodies are run from two states at once, so that the same lines show
what a command leaves unchanged and that it never looks at the frame slots and the timing registers (10_state R41). -/

namespace Sys2Proof.Effects

open Sys2Proof.Machine Sys2Proof.Laws Sys2Proof.Invariant

/-! ### Other frame slots and timing registers -/

/-- What BUILD reads and no other command on a bit-frame slot does: the frame slots and the timing registers. -/
structure Sources where
  frames : Vector Frame Config.frameNames
  nbt    : BitTiming
  dbt    : BitTiming

/-- `s` with other frame slots and timing registers. -/
def withSources (s : State) (src : Sources) : State :=
  { s with frames := src.frames, nbt := src.nbt, dbt := src.dbt }

/-- The body `x` of command `i` run from `s` leaves what `i` leaves, and is in step with the body `x'` of the same command run
from `s` with other frame slots and timing registers: the same error, or the same state but for those. -/
structure InStep (i : Instr) (s : State) (src : Sources) (x x' : Except Err State) : Prop where
  completes : Yields x (Completes i s)
  same      : x' = x.map (withSources · src)

section

variable {i : Instr} {s : State} {src : Sources}

theorem inStep_ok {t : State} (h : Completes i s t) : InStep i s src (.ok t) (.ok (withSources t src)) :=
  ⟨yields_ok h, rfl⟩

theorem inStep_error {e : Err} : InStep i s src (.error e) (.error e) :=
  ⟨yields_error, rfl⟩

theorem inStep_check {p : Prop} [Decidable p] {e : Err} {x x' : Except Err State} (h : InStep i s src x x') :
    InStep i s src (if p then .error e else x) (if p then .error e else x') := by
  split
  · exact inStep_error
  · exact h

theorem inStep_map {α : Type} {x : Except Err α} {g : α → State} (h : ∀ a, Completes i s (g a)) :
    InStep i s src (x.map g) (x.map fun a => withSources (g a) src) := by
  cases x with
  | error e => exact inStep_error
  | ok a => exact inStep_ok (h a)

theorem inStep_bind {α : Type} {x : Except Err α} {g g' : α → Except Err State} (h : ∀ a, InStep i s src (g a) (g' a)) :
    InStep i s src (x.bind g) (x.bind g') := by
  cases x with
  | error e => exact inStep_error
  | ok a => exact h a

theorem inStep_withSlot {bf : BfIx} {k k' : BitFrame → Except Err State} (h : ∀ f, InStep i s src (k f) (k' f)) :
    InStep i s src (withSlot s bf k) (withSlot (withSources s src) bf k') := by
  show InStep i s src (if (s.slot bf).valid then k (s.slot bf) else .error .slot)
    (if (s.slot bf).valid then k' (s.slot bf) else .error .slot)
  split
  · exact h _
  · exact inStep_error

theorem inStep_withBit {f : BitFrame} {ix : Word} {k k' : BitRec → Except Err State}
    (h : ∀ b, InStep i s src (k b) (k' b)) : InStep i s src (withBit f ix k) (withBit f ix k') := by
  unfold withBit
  split
  · exact h _
  · exact inStep_error

theorem inStep_withTq {b : BitRec} {j : Nat} {k k' : Tq → Except Err State}
    (h : ∀ q, InStep i s src (k q) (k' q)) : InStep i s src (withTq b j k) (withTq b j k') := by
  unfold withTq
  split
  · exact h _
  · exact inStep_error

end

/-! ### Commands on bit-frame slots -/

/-- `o` and `o'` are the command `i` run from `s` and from `s` with other frame slots and timing registers, its bodies in
step. -/
def RunInStep (i : Instr) (s : State) (src : Sources) (o o' : Host.Outcome State Fault Refusal) : Prop :=
  ∃ x x', o = command s x ∧ o' = command (withSources s src) x' ∧ InStep i s src x x'

theorem command_inStep {i : Instr} {s : State} {src : Sources} {x x' : Except Err State} (h : InStep i s src x x') :
    RunInStep i s src (command s x) (command (withSources s src) x') :=
  ⟨x, x', rfl, rfl, h⟩

theorem execFirstTq_inStep (bf : BfIx) (p : Phase) (s : State) (src : Sources) :
    RunInStep (.firstTq bf p) s src (execFirstTq bf p s) (execFirstTq bf p (withSources s src)) := by
  refine command_inStep <| inStep_withSlot fun _ => inStep_withBit fun b => ?_
  cases b.first p with
  | none => exact inStep_error
  | some k => exact inStep_ok (completes_result0 rfl)

theorem execLastTq_inStep (bf : BfIx) (p : Phase) (s : State) (src : Sources) :
    RunInStep (.lastTq bf p) s src (execLastTq bf p s) (execLastTq bf p (withSources s src)) := by
  refine command_inStep <| inStep_withSlot fun _ => inStep_withBit fun b => ?_
  cases b.last p with
  | none => exact inStep_error
  | some k => exact inStep_ok (completes_result0 rfl)

theorem execPrevPhase_inStep (bf : BfIx) (p : Phase) (s : State) (src : Sources) :
    RunInStep (.prevPhase bf p) s src (execPrevPhase bf p s) (execPrevPhase bf p (withSources s src)) := by
  refine command_inStep <| inStep_withSlot fun _ => inStep_withBit fun b => ?_
  cases b.prevPhase p with
  | none => exact inStep_error
  | some q => exact inStep_ok (completes_result0 rfl)

theorem execGetRandomBitOf_inStep (bf : BfIx) (t : Tag) (v : Option Level) (s : State) (src : Sources) :
    RunInStep (.getRandomBitOf bf t v) s src (execGetRandomBitOf bf t v s)
      (execGetRandomBitOf bf t v (withSources s src)) := by
  refine command_inStep <| inStep_withSlot fun f => ?_
  dsimp only [withSources]
  cases pick (f.indices fun b => BitRec.logical t b && BitRec.valOk v b) (Config.drawIndex s.draws) with
  | none => exact inStep_error
  | some ix => exact inStep_ok (completes_draws (completes_result0 rfl))

theorem execRemoveBit_inStep (bf : BfIx) (flag : Bool) (field : Option Tag) (s : State) (src : Sources) :
    RunInStep (.removeBit bf flag field) s src (execRemoveBit bf flag field s)
      (execRemoveBit bf flag field (withSources s src)) := by
  refine command_inStep <| inStep_withSlot fun f => ?_
  match flag, field with
  | false, some _ => exact inStep_error
  | false, none => exact inStep_withBit fun _ => inStep_ok (completes_setBits rfl)
  | true, none => exact inStep_error
  | true, some _ => exact inStep_map fun _ => completes_setBits rfl

/-- Every command that uses a bit-frame slot, BUILD excepted, runs in step whatever the frame slots and timing registers
hold. -/
theorem exec_inStep (s : State) (src : Sources) (i : Instr) (h : i.touches.checks ≠ []) :
    RunInStep i s src (exec i s) (exec i (withSources s src)) := by
  cases i with
  | update bf flag =>
    exact command_inStep <| inStep_withSlot fun _ => inStep_bind fun _ => inStep_map fun _ => completes_setBits rfl
  | readLen bf => exact command_inStep <| inStep_withSlot fun _ => inStep_ok (completes_result0 rfl)
  | readBit bf =>
    exact command_inStep <| inStep_withSlot fun _ => inStep_withBit fun _ => inStep_ok (completes_results rfl rfl)
  | readTq bf =>
    exact command_inStep <| inStep_withSlot fun _ => inStep_withBit fun _ => inStep_withTq fun _ =>
      inStep_ok (completes_results rfl rfl)
  | readCycle bf =>
    exact command_inStep <| inStep_withSlot fun _ => inStep_withBit fun _ => inStep_withTq fun _ =>
      inStep_check <| inStep_ok (completes_result0 rfl)
  | bitCycles bf =>
    exact command_inStep <| inStep_withSlot fun _ => inStep_withBit fun _ => inStep_ok (completes_result0 rfl)
  | getBitOf bf t => exact command_inStep <| inStep_withSlot fun _ => inStep_map fun _ => completes_result0 rfl
  | getBitOfNs bf t => exact command_inStep <| inStep_withSlot fun _ => inStep_map fun _ => completes_result0 rfl
  | getRandomBitOf bf t v => exact execGetRandomBitOf_inStep bf t v s src
  | getStuffBit bf k v => exact command_inStep <| inStep_withSlot fun _ => inStep_map fun _ => completes_result0 rfl
  | getBitIndex bf =>
    exact command_inStep <| inStep_withSlot fun _ => inStep_withBit fun _ => inStep_ok (completes_result0 rfl)
  | getNumStuff bf k t v => exact command_inStep <| inStep_withSlot fun _ => inStep_ok (completes_result0 rfl)
  | insertBit bf t v => exact command_inStep <| inStep_withSlot fun _ => inStep_map fun _ => completes_setBits rfl
  | insertBitCopy bf bf2 =>
    exact command_inStep <| inStep_withSlot fun _ => inStep_withSlot fun _ => inStep_withBit fun _ =>
      inStep_map fun _ => completes_setBits rfl
  | removeBit bf flag t => exact execRemoveBit_inStep bf flag t s src
  | appendBit bf t v => exact command_inStep <| inStep_withSlot fun _ => inStep_map fun _ => completes_setBits rfl
  | appendBf bf bf2 =>
    exact command_inStep <| inStep_withSlot fun _ => inStep_withSlot fun _ => inStep_map fun _ => completes_setBits rfl
  | removeBitsFrom bf =>
    exact command_inStep <| inStep_withSlot fun _ => inStep_check <| inStep_ok (completes_setBits rfl)
  | turnRx bf => exact command_inStep <| inStep_withSlot fun _ => inStep_ok (completes_setBits rfl)
  | insActErr bf => exact command_inStep <| inStep_withSlot fun _ => inStep_map fun _ => completes_setBits rfl
  | insPasErr bf => exact command_inStep <| inStep_withSlot fun _ => inStep_map fun _ => completes_setBits rfl
  | insOvr bf => exact command_inStep <| inStep_withSlot fun _ => inStep_map fun _ => completes_setBits rfl
  | looseArb bf => exact command_inStep <| inStep_withSlot fun _ => inStep_withBit fun _ => inStep_ok (completes_setBits rfl)
  | flipBit bf => exact command_inStep <| inStep_withSlot fun _ => inStep_withBit fun _ => inStep_ok (completes_setBits rfl)
  | flipComp bf =>
    exact command_inStep <| inStep_withSlot fun _ => inStep_withBit fun _ => inStep_map fun _ => completes_setBits rfl
  | appendSuspend bf => exact command_inStep <| inStep_withSlot fun _ => inStep_map fun _ => completes_setBits rfl
  | lengthen bf p =>
    exact command_inStep <| inStep_withSlot fun _ => inStep_withBit fun _ => inStep_map fun _ => completes_setBit rfl
  | shorten bf p =>
    exact command_inStep <| inStep_withSlot fun _ => inStep_withBit fun _ => inStep_map fun _ => completes_setBit rfl
  | forceTq bf flag p v =>
    exact command_inStep <| inStep_withSlot fun _ => inStep_withBit fun _ => inStep_map fun _ => completes_setBit rfl
  | forceCycle bf flag p v =>
    exact command_inStep <| inStep_withSlot fun _ => inStep_withBit fun _ => inStep_bind fun _ => inStep_withTq fun _ =>
      inStep_check <| inStep_ok (completes_setBit rfl)
  | firstTq bf p => exact execFirstTq_inStep bf p s src
  | lastTq bf p => exact execLastTq_inStep bf p s src
  | prevPhase bf p => exact execPrevPhase_inStep bf p s src
  | resync bf =>
    exact command_inStep <| inStep_withSlot fun _ => inStep_withBit fun _ => inStep_map fun _ =>
      completes_setResult0 (completes_setBit rfl) rfl
  | _ => exact absurd rfl h

/-- Where the bodies of a command are in step, its outcomes are: it is dropped, completes or fails in both runs. -/
theorem next_of_inStep {i : Instr} {s t : State} {src : Sources} {o o' : Host.Outcome State Fault Refusal}
    (h : RunInStep i s src o o') (ht : o = .next t) : o' = .next (withSources t src) := by
  obtain ⟨x, _, rfl, rfl, -, rfl⟩ := h
  obtain ⟨herr, rfl⟩ | ⟨herr, rfl⟩ | ⟨herr, e, rfl, rfl⟩ := command_cases ht
  · exact command_drop herr
  · exact command_ok herr
  · exact command_error herr

/-- A command that uses a bit-frame slot, BUILD excepted, does the same whatever the frame slots and the timing registers
hold. -/
theorem exec_withSources {i : Instr} {s t : State} (src : Sources) (hi : i.touches.checks ≠ []) (h : exec i s = .next t) :
    exec i (withSources s src) = .next (withSources t src) :=
  next_of_inStep (exec_inStep s src i hi) h

end Sys2Proof.Effects
end

section
/-! Every command and every command word: it is dropped, completes or fails, and what it leaves unchanged in each case
(30_encoding R93, R104). -/

namespace Sys2Proof.Effects

open Sys2Proof.Machine Sys2Proof.Laws Sys2Proof.Invariant Sys2Proof.HostSide

/-- The outcome of command `i` run from `s` is that of a body that, where it completes, leaves what `i` leaves. -/
def Runs (i : Instr) (s : State) (o : Host.Outcome State Fault Refusal) : Prop :=
  ∃ body, o = command s body ∧ Yields body (Completes i s)

theorem command_runs {i : Instr} {s : State} {body : Except Err State} (h : Yields body (Completes i s)) :
    Runs i s (command s body) :=
  ⟨body, rfl, h⟩

theorem runs_of_inStep {i : Instr} {s : State} {src : Sources} {o o' : Host.Outcome State Fault Refusal}
    (h : RunInStep i s src o o') : Runs i s o :=
  have ⟨x, _, ho, _, hx⟩ := h
  ⟨x, ho, hx.completes⟩

theorem execSetDlen_runs (fs : FsIx) (s : State) : Runs (.setDlen fs) s (execSetDlen fs s) := by
  refine command_runs ?_
  dsimp only
  split
  · exact yields_error
  · exact yields_ok (completes_setFrame rfl)

theorem execLenToDlc_runs (flag : Bool) (s : State) : Runs (.lenToDlc flag) s (execLenToDlc flag s) := by
  refine command_runs ?_
  split
  · exact yields_error
  · exact yields_ok (completes_result0 rfl)

/-- Every command, where it completes, leaves what it does not touch; those on bit-frame slots by `exec_inStep`. -/
theorem exec_runs (i : Instr) (s : State) : Runs i s (exec i s) := by
  cases i with
  | nop => exact command_runs <| yields_ok completes_refl
  | setNbt => exact command_runs <| yields_map fun _ _ => completes_nbt
  | setDbt => exact command_runs <| yields_map fun _ _ => completes_dbt
  | setFlags fs => exact command_runs <| yields_check fun _ => yields_ok completes_setFlags
  | setDlc fs => exact command_runs <| yields_check fun _ => yields_ok (completes_setFrame rfl)
  | setDlen fs => exact execSetDlen_runs fs s
  | setId fs => exact command_runs <| yields_check fun _ => yields_check fun _ => yields_ok (completes_setFrame rfl)
  | randomize fs => exact command_runs <| yields_ok (completes_draws (completes_setFrame rfl))
  | frameEq => exact command_runs <| yields_ok (completes_result0 rfl)
  | dlcToLen flag => exact command_runs <| yields_check fun _ => yields_ok (completes_result0 rfl)
  | lenToDlc flag => exact execLenToDlc_runs flag s
  | build bf fs => exact command_runs <| yields_map fun _ _ => completes_build
  | removeBit bf flag t => exact runs_of_inStep (execRemoveBit_inStep bf flag t s ⟨s.frames, s.nbt, s.dbt⟩)
  | _ => exact runs_of_inStep (exec_inStep s ⟨s.frames, s.nbt, s.dbt⟩ _ nofun)

/-- Everything a command can do: be dropped, complete, or fail. -/
theorem exec_cases {i : Instr} {s t : State} (h : exec i s = .next t) :
    (s.status.err = true ∧ t = dropCommand s) ∨ (s.status.err = false ∧ Completes i s t) ∨
      (s.status.err = false ∧ ∃ e, t = raise s e) := by
  obtain ⟨body, hbody, hcompletes⟩ := exec_runs i s
  exact (command_cases (hbody.symm.trans h)).imp_right <|
    Or.imp (And.imp_right (hcompletes t)) (And.imp_right fun ⟨e, _, ht⟩ => ⟨e, ht⟩)

/-- Every command leaves what it does not touch, whether it completes, fails or is dropped. -/
theorem exec_leaves {i : Instr} {s t : State} (h : exec i s = .next t) : Leaves i s t := by
  obtain ⟨-, rfl⟩ | ⟨-, hcompletes⟩ | ⟨-, e, rfl⟩ := exec_cases h
  · exact leaves_dropCommand i s
  · exact hcompletes.toLeaves
  · exact leaves_raise i s e

/-- Everything a word written to CMD can do in a block that has the slots it names: be dropped, complete as the command it
decodes to, or fail. -/
theorem runWord_cases {w : Word} {s t : State} (h : runWord w s = .next t) :
    (s.status.err = true ∧ t = dropCommand s) ∨
      (s.status.err = false ∧ ∃ i, decode w = .ok i ∧ Completes i s t) ∨
      (s.status.err = false ∧ ∃ e, t = raise s e) := by
  cases hw : decode w with
  | error e =>
    rw [runWord_error hw] at h
    obtain hdrop | ⟨-, ⟨⟩⟩ | ⟨herr, e', -, ht⟩ := command_cases h
    · exact .inl hdrop
    · exact .inr (.inr ⟨herr, e', ht⟩)
  | ok i =>
    cases hb : slotsExist s.params w i with
    | true =>
      rw [runWord_exec hw hb] at h
      exact (exec_cases h).imp_right <| Or.imp_left <| And.imp_right fun hi => ⟨i, rfl, hi⟩
    | false =>
      rw [runWord_absent hw hb] at h
      split at h
      · next herr => exact .inl ⟨herr, by simpa using h.symm⟩
      · cases h

/-! ### The argument and result registers and the snapshots -/

/-- No command word writes an argument register (10_state R22). -/
theorem runWord_args {w : Word} {s t : State} (h : runWord w s = .next t) :
    t.arg0 = s.arg0 ∧ t.arg1 = s.arg1 ∧ t.arg2 = s.arg2 ∧ t.arg3 = s.arg3 := by
  obtain ⟨-, rfl⟩ | ⟨-, i, -, hcompletes⟩ | ⟨-, e, rfl⟩ := runWord_cases h
  · exact ⟨rfl, rfl, rfl, rfl⟩
  · exact hcompletes.args
  · exact ⟨rfl, rfl, rfl, rfl⟩

/-- Settles O19: a host access reaches the register of its address, and no command word writes an argument register. -/
theorem argumentRegisters : Obligations.ArgumentRegisters :=
  ⟨fun _ v => ⟨writeAt_of_regAt .arg0 v rfl nofun, writeAt_of_regAt .arg1 v rfl nofun, writeAt_of_regAt .arg2 v rfl nofun,
    writeAt_of_regAt .arg3 v rfl nofun, readAt_of_regAt .arg0 rfl, readAt_of_regAt .arg1 rfl, readAt_of_regAt .arg2 rfl,
    readAt_of_regAt .arg3 rfl⟩, fun _ _ _ => runWord_args, rfl, rfl, rfl, rfl⟩

/-- A command word that leaves an error recorded did not complete, so it wrote no result (10_state R23). -/
theorem runWord_results_of_err {w : Word} {s t : State} (h : runWord w s = .next t) (ht : t.status.err = true) :
    t.result0 = s.result0 ∧ t.result1 = s.result1 := by
  obtain ⟨-, rfl⟩ | ⟨herr, i, -, hcompletes⟩ | ⟨-, e, rfl⟩ := runWord_cases h
  · exact ⟨rfl, rfl⟩
  · cases (hcompletes.err.trans herr).symm.trans ht
  · exact ⟨rfl, rfl⟩

/-- Settles O20: the host's writes reach read-only registers, and what a command leaves of the results is said by
`runWord_results_of_err` and `exec_leaves`. -/
theorem resultRegisters : Obligations.ResultRegisters :=
  ⟨fun _ v => ⟨writeAt_of_regAt .result0 v rfl nofun, writeAt_of_regAt .result1 v rfl nofun, readAt_of_regAt .result0 rfl,
    readAt_of_regAt .result1 rfl⟩, fun _ _ _ => runWord_results_of_err,
    fun _ _ _ h => ⟨(exec_leaves h).result0, (exec_leaves h).result1⟩, rfl, rfl⟩

/-- Settles O27: no command but BUILD writes a snapshot, and the bodies of those that use a built slot run in step from
states that differ in the frame slots and the timing registers alone. -/
theorem snapshotStaysUntilBuild : Obligations.SnapshotStaysUntilBuild := fun _ _ _ hbuild h =>
  have hleaves := exec_leaves h
  ⟨fun bf => (hleaves.built hbuild bf).2, fun hedits bf => hleaves.slots bf (hedits ▸ nofun),
    fun hchecks frames nbt dbt => exec_withSources ⟨frames, nbt, dbt⟩ hchecks h⟩

end Sys2Proof.Effects
end

section
/-! The register map (20_memory R62, R63): where each register stands, and what a host access at an address reaches. -/

namespace Sys2Proof.RegisterMap

open Sys2Proof.Machine Sys2Proof.Laws Sys2Proof.HostSide

/-- The address of a register (20_memory R63). -/
def offset : Reg → Nat
  | .cmd => 0x000
  | .status => 0x004
  | .statusClr => 0x008
  | .caps => 0x00C
  | .arg0 => 0x010
  | .arg1 => 0x014
  | .arg2 => 0x018
  | .arg3 => 0x01C
  | .result0 => 0x020
  | .result1 => 0x024
  | .nbtSeg => 0x030
  | .nbtBrp => 0x034
  | .dbtSeg => 0x038
  | .dbtBrp => 0x03C
  | .bfInfo bf => 0x040 + 4 * bf.val
  | .flags fs => 0x100 + 0x80 * fs.val
  | .dlc fs => 0x104 + 0x80 * fs.val
  | .dlen fs => 0x108 + 0x80 * fs.val
  | .id fs => 0x10C + 0x80 * fs.val
  | .rand fs => 0x110 + 0x80 * fs.val
  | .data fs w => 0x140 + 0x80 * fs.val + 4 * w.val

/-- A block with parameters `c` has the slot a register belongs to (20_memory R63). -/
def Present (c : Config.Params) : Reg → Prop
  | .bfInfo bf => bf.val < c.bfSlots
  | .flags fs | .dlc fs | .dlen fs | .id fs | .rand fs | .data fs _ => fs.val < c.frameSlots
  | _ => True

/-! ### From a register to its address -/

theorem offset_lt (r : Reg) : offset r < 0x1000 := by
  cases r with
  | bfInfo bf =>
    have hbf : bf.val < 4 := bf.isLt
    simp only [offset]
    omega
  | flags fs | dlc fs | dlen fs | id fs | rand fs | data fs _ =>
    have hfs : fs.val < 2 := fs.isLt
    simp only [offset]
    omega
  | _ => decide

@[simp] theorem toNat_offset (r : Reg) : (BitVec.ofNat 12 (offset r)).toNat = offset r :=
  Nat.mod_eq_of_lt (offset_lt r)

/-- The registers of a frame slot fill the 0x80 bytes from `0x100 + 0x80 * fs` on, where the block has the slot. -/
theorem regAt_frame (c : Config.Params) {a : Addr} (fs : FsIx) (o : Fin 0x80) (h : a.toNat = 0x100 + 0x80 * fs.val + o.val) :
    regAt c a = if fs.val < c.frameSlots then frameReg fs o.val else none := by
  unfold regAt
  split
  case h_19 =>
    match fs with
    | 0 => simp [h, show 0x100 + o.val < 0x180 by omega, show ¬ 0x180 ≤ 0x100 + o.val by omega]
    | 1 => simp [h, show 0x180 + o.val < 0x200 by omega]
  all_goals omega

theorem frameReg_data (fs : FsIx) (w : Fin 16) : frameReg fs (0x40 + 4 * w.val) = some (.data fs w) := by
  fin_cases w <;> rfl

/-- The address of a register names it where the block has its slot (20_memory R63). -/
theorem regAt_offset_of_present {c : Config.Params} {r : Reg} (h : Present c r) :
    regAt c (BitVec.ofNat 12 (offset r)) = some r := by
  have hframe (fs : FsIx) (o : Fin 0x80) (hfs : fs.val < c.frameSlots) (ho : offset r = 0x100 + 0x80 * fs.val + o.val) :
      regAt c (BitVec.ofNat 12 (offset r)) = frameReg fs o.val :=
    (regAt_frame c fs o ((toNat_offset r).trans ho)).trans (if_pos hfs)
  cases r with
  | bfInfo bf =>
    have hbf : regAt c (BitVec.ofNat 12 (offset (.bfInfo bf))) = bfReg c bf := by fin_cases bf <;> rfl
    exact hbf.trans (if_pos h)
  | flags fs => exact hframe fs 0x00 h rfl
  | dlc fs => exact hframe fs 0x04 h (Nat.add_right_comm 0x100 0x04 _)
  | dlen fs => exact hframe fs 0x08 h (Nat.add_right_comm 0x100 0x08 _)
  | id fs => exact hframe fs 0x0C h (Nat.add_right_comm 0x100 0x0C _)
  | rand fs => exact hframe fs 0x10 h (Nat.add_right_comm 0x100 0x10 _)
  | data fs w =>
    exact (hframe fs ⟨0x40 + 4 * w.val, by omega⟩ h (by simp only [offset]; omega)).trans (frameReg_data fs w)
  | _ => rfl

/-! ### From an address to its register -/

theorem frameReg_some {c : Config.Params} {fs : FsIx} {o : Nat} {r : Reg} (h : frameReg fs o = some r)
    (hfs : fs.val < c.frameSlots) : 0x100 + 0x80 * fs.val + o = offset r ∧ Present c r := by
  unfold frameReg at h
  split at h
  case h_6 =>
    split at h
    · next ho =>
      cases h
      refine ⟨?_, hfs⟩
      simp only [offset, Fin.val_ofNat]
      omega
    · cases h
  all_goals
    cases h
    exact ⟨by simp only [offset]; omega, hfs⟩

theorem bfReg_some {c : Config.Params} {bf : BfIx} {r : Reg} (h : bfReg c bf = some r) :
    0x040 + 4 * bf.val = offset r ∧ Present c r := by
  unfold bfReg at h
  split at h
  · next hbf =>
    cases h
    exact ⟨rfl, hbf⟩
  · cases h

/-- An address that names a register is the register's, in a block that has its slot. -/
theorem offset_of_regAt {c : Config.Params} {a : Addr} {r : Reg} (h : regAt c a = some r) :
    a.toNat = offset r ∧ Present c r := by
  unfold regAt at h
  split at h
  case h_15 ha | h_16 ha | h_17 ha | h_18 ha => exact (bfReg_some h).imp_left ha.trans
  case h_19 =>
    split at h
    · next hn =>
      obtain ⟨hlo, -, hfs⟩ := hn
      exact (frameReg_some h hfs).imp_left (Nat.add_sub_cancel' hlo).symm.trans
    · split at h
      · next hn =>
        obtain ⟨hlo, -, hfs⟩ := hn
        exact (frameReg_some h hfs).imp_left (Nat.add_sub_cancel' hlo).symm.trans
      · cases h
  all_goals
    cases h
    exact ⟨by assumption, trivial⟩

/-- The registers a block has are those the map lists (20_memory R63). -/
theorem offset_mem_listedOffsets {c : Config.Params} {r : Reg} (h : Present c r) : offset r ∈ listedOffsets c := by
  have hframe (fs : FsIx) (o : Nat) (hfs : fs.val < c.frameSlots) (ho : o ∈ [0x00, 0x04, 0x08, 0x0C, 0x10])
      (hr : offset r = 0x100 + 0x80 * fs.val + o) : offset r ∈ listedOffsets c :=
    hr ▸ List.mem_append_right _ (List.mem_flatMap.mpr ⟨fs, List.mem_range.mpr hfs,
      List.mem_append_left _ (List.mem_map.mpr ⟨o, ho, rfl⟩)⟩)
  cases r with
  | bfInfo bf =>
    exact List.mem_append_left _ <| List.mem_append_right _ <| List.mem_map.mpr ⟨bf, List.mem_range.mpr h, rfl⟩
  | flags fs => exact hframe fs 0x00 h (by decide) rfl
  | dlc fs => exact hframe fs 0x04 h (by decide) (Nat.add_right_comm 0x100 0x04 _)
  | dlen fs => exact hframe fs 0x08 h (by decide) (Nat.add_right_comm 0x100 0x08 _)
  | id fs => exact hframe fs 0x0C h (by decide) (Nat.add_right_comm 0x100 0x0C _)
  | rand fs => exact hframe fs 0x10 h (by decide) (Nat.add_right_comm 0x100 0x10 _)
  | data fs w =>
    exact List.mem_append_right _ <| List.mem_flatMap.mpr ⟨fs, List.mem_range.mpr h,
      List.mem_append_right _ (List.mem_map.mpr ⟨w, List.mem_range.mpr w.isLt,
        congrArg (· + 4 * w.val) (Nat.add_right_comm 0x100 _ 0x40)⟩)⟩
  | _ => exact List.mem_append_left _ <| List.mem_append_left _ <| by simp [offset]

/-- An address the map does not list names no register. -/
theorem regAt_unlisted {c : Config.Params} {a : Addr} (h : a.toNat ∉ listedOffsets c) : regAt c a = none := by
  cases ha : regAt c a with
  | none => rfl
  | some r =>
    obtain ⟨hr, hpresent⟩ := offset_of_regAt ha
    exact absurd (offset_mem_listedOffsets hpresent) (hr ▸ h)

/-- The block of 00_scope R8 has every register. -/
theorem present_standard (r : Reg) : Present Config.Params.standard r := by
  cases r with
  | bfInfo bf => exact bf.isLt
  | flags fs | dlc fs | dlen fs | id fs | rand fs | data fs _ => exact fs.isLt
  | _ => trivial

/-- No two registers share an address: in the block of 00_scope R8 each names its own register. -/
theorem offset_injective : Function.Injective offset := fun r r' h =>
  Option.some.inj <| (regAt_offset_of_present (present_standard r)).symm.trans
    (h ▸ regAt_offset_of_present (present_standard r'))

/-- The address of a register of an absent slot names no register. -/
theorem regAt_offset_of_absent {c : Config.Params} {r : Reg} (h : ¬ Present c r) :
    regAt c (BitVec.ofNat 12 (offset r)) = none := by
  cases ha : regAt c (BitVec.ofNat 12 (offset r)) with
  | none => rfl
  | some r' =>
    obtain ⟨hr, hpresent⟩ := offset_of_regAt ha
    exact absurd hpresent (offset_injective ((toNat_offset r).symm.trans hr) ▸ h)

/-! ### Accesses -/

theorem readAt_of_regAt_none {s : State} {a : Addr} (h : regAt s.params a = none) : readAt s a = 0 := by simp [readAt, h]

theorem writeAt_of_regAt_none {s : State} {a : Addr} (v : Word) (h : regAt s.params a = none) : writeAt a v s = .next s := by
  simp [writeAt, h]

/-- A read at the address of a register the block has gives what the register reads as. -/
theorem readAt_offset {s : State} (r : Reg) (h : Present s.params r) :
    readAt s (BitVec.ofNat 12 (offset r)) = readReg s r :=
  readAt_of_regAt r (regAt_offset_of_present h)

/-- A write at the address of a register other than CMD the block has leaves what the register's write leaves. -/
theorem writeAt_offset {s : State} (r : Reg) (v : Word) (h : Present s.params r) (hr : r ≠ .cmd) :
    writeAt (BitVec.ofNat 12 (offset r)) v s = .next (writeReg s v r) :=
  writeAt_of_regAt r v (regAt_offset_of_present h) hr

/-- A write at the address of a read-only register is ignored, whether or not the block has the register (20_memory R62). -/
theorem writeAt_readOnly {s : State} {v : Word} (r : Reg) (hr : r ≠ .cmd) (h : writeReg s v r = s) :
    writeAt (BitVec.ofNat 12 (offset r)) v s = .next s := by
  by_cases hpresent : Present s.params r
  · rw [writeAt_offset r v hpresent hr, h]
  · exact writeAt_of_regAt_none v (regAt_offset_of_absent hpresent)

/-- Two words that write a register alike are written alike at its address, whether or not the block has the register. -/
theorem writeAt_congr {s : State} {v v' : Word} (r : Reg) (hr : r ≠ .cmd) (h : writeReg s v r = writeReg s v' r) :
    writeAt (BitVec.ofNat 12 (offset r)) v s = writeAt (BitVec.ofNat 12 (offset r)) v' s := by
  by_cases hpresent : Present s.params r
  · rw [writeAt_offset r v hpresent hr, writeAt_offset r v' hpresent hr, h]
  · have hnone := regAt_offset_of_absent hpresent
    rw [writeAt_of_regAt_none v hnone, writeAt_of_regAt_none v' hnone]

end Sys2Proof.RegisterMap
end

section
/-! What each register reads as, field by field, its reserved bits, and the data window (20_memory R62 to R64). -/

namespace Sys2Proof.RegisterMap

open Sys2Proof.Machine Sys2Proof.Laws Sys2Proof.ResetState

/-! ### Fields of a word -/

/-- A word is a field of 32 bits at bit 0. -/
theorem place_zero (v : Word) : place v 0 = v := by simp [place]

theorem place_zeros (n lo : Nat) : place 0#n lo = 0 := by simp [place]

/-- Two fields side by side, taken apart. -/
theorem place_append {n m : Nat} (v : BitVec n) (v' : BitVec m) (lo : Nat) :
    place (v ++ v') lo = place v (lo + m) ||| place v' lo :=
  (place_or_place v v' rfl).symm

theorem place_place {n : Nat} (v : BitVec n) (lo hi : Nat) : place (place v lo) hi = place v (lo + hi) := by
  simp [place, BitVec.shiftLeft_add]

theorem place_or (v v' : Word) (lo : Nat) : place (v ||| v') lo = place v lo ||| place v' lo := by
  simp [place, BitVec.shiftLeft_or_distrib]

/-- A field at its own place in a word is read back whole. -/
theorem extractLsb'_place {n : Nat} (v : BitVec n) (lo : Nat) (h : lo + n ≤ 32) : (place v lo).extractLsb' lo n = v := by
  apply BitVec.eq_of_getLsbD_eq
  intro i hi
  rw [BitVec.getLsbD_extractLsb', getLsbD_place]
  simp [hi, show lo + i < 32 by omega]

/-- A field is not seen above or below its place. -/
theorem extractLsb'_place_apart {n : Nat} (v : BitVec n) (lo start len : Nat) (h : start + len ≤ lo ∨ lo + n ≤ start) :
    (place v lo).extractLsb' start len = 0 := by
  apply BitVec.eq_of_getLsbD_eq
  intro i hi
  obtain h | h := h
  · simp [BitVec.getLsbD_extractLsb', getLsbD_place, show ¬ lo ≤ start + i by omega]
  · simp [BitVec.getLsbD_extractLsb', getLsbD_place, BitVec.getLsbD_of_ge v (start + i - lo) (by omega)]

/-- A field shows nothing under a mask that is 0 at its place. -/
theorem place_and_eq_zero {n : Nat} {m : Word} (v : BitVec n) (lo : Nat) (h : m.extractLsb' lo n = 0) : place v lo &&& m = 0 := by
  apply BitVec.eq_of_getLsbD_eq
  intro i hi
  rw [BitVec.getLsbD_and, getLsbD_place]
  by_cases hfield : lo ≤ i ∧ i - lo < n
  · have hm : (m.extractLsb' lo n).getLsbD (i - lo) = false := by
      rw [h]
      exact BitVec.getLsbD_zero
    rw [BitVec.getLsbD_extractLsb', Nat.add_sub_cancel' hfield.1, decide_eq_true hfield.2, Bool.true_and] at hm
    simp [hm]
  · rw [not_and_or] at hfield
    obtain hlo | hhi := hfield
    · simp [hlo]
    · simp [BitVec.getLsbD_of_ge v (i - lo) (by omega)]

/-- Nor does a field alone in its word. -/
theorem setWidth_and_eq_zero {n : Nat} {m : Word} (v : BitVec n) (h : m.extractLsb' 0 n = 0) : v.setWidth 32 &&& m = 0 := by
  simpa [place] using place_and_eq_zero v 0 h

/-! ### Register words, field by field -/

theorem statusWord_eq (st : Status) : st.word = 0#16 ++ st.ecode ++ 0#3 ++ BitVec.ofBool st.wEsiCl ++ BitVec.ofBool st.wBrsCl
    ++ BitVec.ofBool st.wRtrFd ++ BitVec.ofBool st.drop ++ BitVec.ofBool st.err := by
  refine .trans ?_ (place_zero _)
  simp only [place_append]
  simp [place_zeros, Status.word, placeBit]

theorem segWord_eq (t : BitTiming) : t.segWord = t.sjw ++ t.ph2 ++ t.ph1 ++ t.prop := by
  refine .trans ?_ (place_zero _)
  simp only [place_append]
  simp [BitTiming.segWord]

theorem brpWord_eq (t : BitTiming) : t.brpWord = BitVec.ofBool t.valid ++ 0#23 ++ t.brp := by
  refine .trans ?_ (place_zero _)
  simp only [place_append]
  simp [place_zeros, BitTiming.brpWord, placeBit]

theorem flagsWord_eq (f : FrameFlags) : f.word = 0#27 ++ BitVec.ofBool f.esi ++ BitVec.ofBool f.brs ++ BitVec.ofBool f.rtr
    ++ BitVec.ofBool f.ide ++ BitVec.ofBool f.fdf := by
  refine .trans ?_ (place_zero _)
  simp only [place_append]
  simp [place_zeros, FrameFlags.word, placeBit]

theorem infoWord_eq (f : BitFrame) : f.infoWord = BitVec.ofBool f.valid ++ 0#3 ++ f.snap.dlc ++ 0#3
    ++ BitVec.ofBool f.snap.flags.esi ++ BitVec.ofBool f.snap.flags.brs ++ BitVec.ofBool f.snap.flags.rtr
    ++ BitVec.ofBool f.snap.flags.ide ++ BitVec.ofBool f.snap.flags.fdf ++ BitVec.ofNat 16 f.bits.length := by
  refine .trans ?_ (place_zero _)
  simp only [place_append]
  simp [place_zeros, place_or, place_place, BitFrame.infoWord, FrameFlags.word, placeBit, BitVec.or_assoc]

theorem dataWord_eq (fr : Frame) (w : Fin 16) :
    fr.dataWord w = fr.byte w 3 ++ fr.byte w 2 ++ fr.byte w 1 ++ fr.byte w 0 := by
  refine .trans ?_ (place_zero _)
  simp only [place_append]
  simp [Frame.dataWord]

/-- Lane `k` of a data-window word is byte `4w + k` (20_memory R64). -/
theorem dataWord_lane (fr : Frame) (w : Fin 16) (k : Fin 4) :
    (fr.dataWord w >>> (8 * k.val)).setWidth 8 = fr.byte w k := by
  rw [BitVec.setWidth_ushiftRight_eq_extractLsb]
  fin_cases k <;> simp [Frame.dataWord, BitVec.extractLsb'_or, extractLsb'_place, extractLsb'_place_apart]

/-! ### Reserved bits -/

/-- The reserved bits of a register (20_memory R62, R63). -/
def reserved : Reg → Word
  | .status => 0xFFFF00E0
  | .nbtBrp | .dbtBrp => 0x7FFFFF00
  | .bfInfo _ => 0x70E00000
  | .flags _ => 0xFFFFFFE0
  | .dlc _ => 0xFFFFFFF0
  | .dlen _ => 0xFFFFFF80
  | .id _ => 0xE0000000
  | .rand _ => 0xFFFFFFF8
  | _ => 0

/-- The reserved bits read as 0: each field of a register stands outside them. -/
theorem readReg_reserved (s : State) (r : Reg) : readReg s r &&& reserved r = 0 := by
  cases r with
  | status | nbtBrp | dbtBrp | bfInfo bf | flags fs =>
    simp [readReg, reserved, Status.word, BitTiming.brpWord, BitFrame.infoWord, FrameFlags.word, placeBit, place_or,
      place_place, BitVec.and_or_distrib_right, place_and_eq_zero]
  | dlc fs | dlen fs | id fs | rand fs => simp [readReg, reserved, setWidth_and_eq_zero]
  | _ => exact BitVec.and_zero

/-- They read as 0 at the register's address, whether or not the block has the register. -/
theorem readAt_reserved (s : State) (r : Reg) : readAt s (BitVec.ofNat 12 (offset r)) &&& reserved r = 0 := by
  by_cases h : Present s.params r
  · rw [readAt_offset r h, readReg_reserved]
  · rw [readAt_of_regAt_none (regAt_offset_of_absent h)]
    exact BitVec.zero_and

/-! ### The data window -/

/-- Every byte of the data buffer that the window reaches is in one lane of one of its words. -/
theorem exists_byteIx (j : Fin Config.windowBytes) : ∃ w k, j = byteIx w k :=
  ⟨⟨j.val / 4, Nat.div_lt_of_lt_mul j.isLt⟩, ⟨j.val % 4, Nat.mod_lt _ (by decide)⟩, Fin.ext (Nat.div_add_mod _ 4).symm⟩

/-- A write of a data-window word replaces its four bytes and keeps the others (20_memory R64). -/
theorem byte_setDataWord (fr : Frame) (w w' : Fin 16) (k : Fin 4) (v : Word) :
    (fr.setDataWord w v).byte w' k = if w' = w then v.extractLsb' (8 * k.val) 8 else fr.byte w' k := by
  by_cases hw : w' = w
  · subst hw
    fin_cases k <;> simp [Frame.byte, Frame.setDataWord, byteIx]
  · have hne : w'.val ≠ w.val := fun h => hw (Fin.ext h)
    simp only [Frame.byte, Frame.setDataWord, byteIx, Fin.getElem_fin, Vector.getElem_set, hw, if_false]
    simp only [show ∀ k' : Fin 4, 4 * w.val + k'.val ≠ 4 * w'.val + k.val by omega, if_false]

/-- Settles O18: a byte of the buffer after the write is asked for by its word and lane. -/
theorem dataWindow : Obligations.DataWindow := by
  intro s f w v hf
  refine ⟨(readAt_offset (.data f w) hf).trans (dataWord_eq _ w), ((s.frame f).setDataWord w v).data,
    writeAt_offset (.data f w) v hf nofun, fun j => ?_⟩
  obtain ⟨w', k, rfl⟩ := exists_byteIx j
  have hdiv : (byteIx w' k).val / 4 = w'.val := by simp only [byteIx]; omega
  have hmod : (byteIx w' k).val % 4 = k.val := by simp only [byteIx]; omega
  simp only [hdiv, hmod, Fin.val_inj, BitVec.setWidth_ushiftRight_eq_extractLsb]
  exact byte_setDataWord (s.frame f) w w' k v

/-- Settles O15: each address names its register, and a register's word is its fields side by side. -/
theorem readsFollowTheMap : Obligations.ReadsFollowTheMap := by
  intro s
  have hcaps := (readAt_offset (s := s) .caps trivial).trans (capsWord_eq s.params)
  refine ⟨readAt_offset .cmd trivial, (readAt_offset .status trivial).trans (statusWord_eq _),
    readAt_offset .statusClr trivial, hcaps, fun h => hcaps.trans (by rw [h]; rfl),
    readAt_offset .arg0 trivial, readAt_offset .arg1 trivial, readAt_offset .arg2 trivial, readAt_offset .arg3 trivial,
    readAt_offset .result0 trivial, readAt_offset .result1 trivial,
    (readAt_offset .nbtSeg trivial).trans (segWord_eq _), (readAt_offset .nbtBrp trivial).trans (brpWord_eq _),
    (readAt_offset .dbtSeg trivial).trans (segWord_eq _), (readAt_offset .dbtBrp trivial).trans (brpWord_eq _),
    fun bf hbf => (readAt_offset (.bfInfo bf) hbf).trans (infoWord_eq _), fun f hf => ⟨
      (readAt_offset (.flags f) hf).trans (flagsWord_eq _),
      (readAt_offset (.dlc f) hf).trans (BitVec.setWidth_eq_append (by decide)),
      (readAt_offset (.dlen f) hf).trans (BitVec.setWidth_eq_append (by decide)),
      (readAt_offset (.id f) hf).trans (BitVec.setWidth_eq_append (by decide)),
      (readAt_offset (.rand f) hf).trans (BitVec.setWidth_eq_append (by decide)),
      fun w k => ?_, fun v => ?_⟩⟩
  · exact (congrArg (fun x : Word => (x >>> (8 * k.val)).setWidth 8) (readAt_offset (.data f w) hf)).trans
      (dataWord_lane _ w k)
  · rw [BitVec.setWidth_eq_extractLsb' (by decide)]
    exact writeAt_offset (.rand f) v hf nofun

/-- The read-only registers (20_memory R63). -/
def readOnlyRegs : List Reg :=
  [.status, .caps, .result0, .result1, .nbtSeg, .nbtBrp, .dbtSeg, .dbtBrp, .bfInfo 0, .bfInfo 1, .bfInfo 2, .bfInfo 3,
    .flags 0, .dlc 0, .dlen 0, .id 0, .flags 1, .dlc 1, .dlen 1, .id 1]

/-- A write of such a register leaves the state as it was. -/
theorem writeReg_readOnly (s : State) (v : Word) : ∀ r ∈ readOnlyRegs, r ≠ .cmd ∧ writeReg s v r = s := by
  simp [readOnlyRegs, writeReg]

/-- The registers with reserved bits (20_memory R62, R63). -/
def reservedRegs : List Reg :=
  [.status, .nbtBrp, .dbtBrp, .bfInfo 0, .bfInfo 1, .bfInfo 2, .bfInfo 3, .flags 0, .dlc 0, .dlen 0, .id 0, .rand 0,
    .flags 1, .dlc 1, .dlen 1, .id 1, .rand 1]

/-- STATUS_CLR clears by the low five bits of the word alone (10_state R26). -/
theorem cleared_and (st : Status) (v : Word) : st.cleared (v &&& 0x1F) = st.cleared v := by
  simp [Status.cleared]

/-- RAND takes the low three bits of the word alone (10_state R35). -/
theorem extractLsb'_and_rand (v : Word) : (v &&& 7).extractLsb' 0 3 = v.extractLsb' 0 3 := by
  rw [BitVec.extractLsb'_and]
  exact BitVec.and_allOnes

/-- Settles O16: an unlisted address names no register, and what holds of a register holds at its address. -/
theorem unlistedReadOnlyReserved : Obligations.UnlistedReadOnlyReserved := by
  intro s v
  have hreadOnly : ∀ n ∈ readOnlyRegs.map offset, writeAt (BitVec.ofNat 12 n) v s = .next s :=
    List.forall_mem_map.mpr fun r hr => (writeReg_readOnly s v r hr).elim (writeAt_readOnly r)
  have hreserved : ∀ m ∈ reservedRegs.map fun r => (offset r, reserved r), readAt s (BitVec.ofNat 12 m.1) &&& m.2 = 0 :=
    List.forall_mem_map.mpr fun r _ => readAt_reserved s r
  refine ⟨fun a ha => ⟨readAt_of_regAt_none (regAt_unlisted ha), writeAt_of_regAt_none v (regAt_unlisted ha)⟩,
    hreadOnly, readAt_offset .cmd trivial, readAt_offset .statusClr trivial, hreserved,
    writeAt_congr .statusClr nofun ?_, fun f => writeAt_congr (.rand f) nofun ?_⟩
  · rw [writeReg, writeReg, clearStatus, clearStatus, cleared_and]
  · rw [writeReg, writeReg, extractLsb'_and_rand]

end Sys2Proof.RegisterMap
end

section
/-! What a step of the host port answers: which accesses have a step, and what an idle block, a read and a reset leave
(20_memory R61, R66, 70_reset R370, R371). -/

namespace Sys2Proof.Serving

open Sys2Proof.Machine Sys2Proof.Laws Sys2Proof.HostSide Sys2Proof.Effects Sys2Proof.RegisterMap

/-! ### Serving an event -/

theorem step_idle {s : State} (h : s.pending = []) : step s = .next s := by simp [step, h]

/-- A step takes the host's next event off and serves it. -/
theorem step_event {s : State} {e : HostEvent} {rest : List HostEvent} (h : s.pending = e :: rest) :
    step s = serve e { s with pending := rest } := by
  have hpopped : s.popped = { s with pending := rest } := by simp [State.popped, h]
  rw [← hpopped, step, h]

theorem admitted_iff {a : Addr} {n : Nat} : admitted a n = true ↔ n = 4 ∧ 4 ∣ a.toNat := by
  simp [admitted, Nat.dvd_iff_mod_eq_zero]

theorem serve_read {s : State} {a : Addr} {n : Nat} (h : admitted a n = true) :
    serve (.read a n) s = .next { s with readData := readAt s a } := by simp [serve, h]

theorem serve_write {s : State} {a : Addr} {n : Nat} {v : Word} (h : admitted a n = true) :
    serve (.write a n v) s = writeAt a v s := by simp [serve, h]

/-! ### Admitted events have a step -/

/-- Every command answers a next state in every state (60_exceptions R346). -/
theorem exec_next (i : Instr) (s : State) : ∃ t, exec i s = .next t := by
  obtain ⟨body, hbody, -⟩ := exec_runs i s
  exact hbody ▸ command_next s body

/-- A word written to CMD answers a next state, but for a command refused in a block that does not cover the command word
(log entry 8). -/
theorem runWord_next_or_refused (w : Word) (s : State) :
    (∃ t, runWord w s = .next t) ∨ (¬ s.params.Covers ∧ runWord w s = .refused .absentSlot) := by
  cases hw : decode w with
  | error e => exact .inl (runWord_error hw ▸ command_next s _)
  | ok i =>
    cases hb : slotsExist s.params w i with
    | true => exact .inl (runWord_exec hw hb ▸ exec_next i s)
    | false =>
      rw [runWord_absent hw hb]
      split
      · exact .inl ⟨_, rfl⟩
      · exact .inr ⟨fun hc => by simp [slotsExist_covers hc] at hb, rfl⟩

/-- A write answers a next state, but for such a command written to CMD. -/
theorem writeAt_next_or_refused (a : Addr) (v : Word) (s : State) :
    (∃ t, writeAt a v s = .next t) ∨ (¬ s.params.Covers ∧ a = 0x000 ∧ writeAt a v s = .refused .absentSlot) := by
  cases ha : regAt s.params a with
  | none => exact .inl ⟨s, writeAt_of_regAt_none v ha⟩
  | some r =>
    by_cases hr : r = .cmd
    · subst hr
      have hrun : writeAt a v s = runWord v s := by simp [writeAt, ha]
      have ha0 : a = 0x000 := BitVec.eq_of_toNat_eq (offset_of_regAt ha).1
      rw [hrun]
      exact (runWord_next_or_refused v s).imp_right fun h => ⟨h.1, ha0, h.2⟩
    · exact .inl ⟨_, writeAt_of_regAt r v ha hr⟩

/-- In a block that covers the command word every admitted event has its step. -/
theorem serve_next {e : HostEvent} {s : State} (hc : s.params.Covers) (he : e.admitted = true) :
    ∃ t, serve e s = .next t := by
  cases e with
  | read a n => exact ⟨_, serve_read he⟩
  | write a n v =>
    rw [serve_write he]
    exact (writeAt_next_or_refused a v s).resolve_right fun h => h.1 hc
  | reset => exact ⟨_, rfl⟩

/-! ### The host's coming events -/

theorem runWord_pending {w : Word} {s t : State} (h : runWord w s = .next t) : t.pending = s.pending := by
  obtain ⟨-, rfl⟩ | ⟨-, i, -, hcompletes⟩ | ⟨-, e, rfl⟩ := runWord_cases h
  · rfl
  · exact hcompletes.host.1
  · rfl

theorem writeReg_pending (s : State) (v : Word) (r : Reg) : (writeReg s v r).pending = s.pending := by
  cases r <;> rfl

theorem writeAt_pending {a : Addr} {v : Word} {s t : State} (h : writeAt a v s = .next t) : t.pending = s.pending := by
  unfold writeAt at h
  split at h
  · exact runWord_pending h
  · cases h
    exact writeReg_pending s v _
  · cases h
    rfl

/-- Serving an event leaves the events after it. -/
theorem serve_pending {e : HostEvent} {s t : State} (h : serve e s = .next t) : t.pending = s.pending := by
  cases e with
  | read a n =>
    unfold serve at h
    dsimp only at h
    split at h
    · cases h
      rfl
    · cases h
  | write a n v =>
    unfold serve at h
    dsimp only at h
    split at h
    · exact writeAt_pending h
    · cases h
  | reset =>
    cases h
    rfl

/-! ### The statements -/

/-- Settles O24: every admitted event has its step, which keeps the parameters and the events after it. -/
theorem admittedHostNeverStuck : Obligations.AdmittedHostNeverStuck := by
  refine ⟨exec_next, ⟨Nat.le_refl 4, Nat.le_refl 2⟩, fun s hc ha => ?_⟩
  cases hs : s.pending with
  | nil => exact ⟨s, step_idle hs, hc, ha⟩
  | cons e rest =>
    rw [State.hostAdmitted, hs, List.forall_mem_cons] at ha
    obtain ⟨t, ht⟩ := serve_next (s := { s with pending := rest }) hc ha.1
    have hstep := (step_event hs).trans ht
    refine ⟨t, hstep, (Invariant.step_keeps s t hstep).params ▸ hc, fun e' he' => ha.2 e' ?_⟩
    rwa [serve_pending ht] at he'

/-- Settles O14: only an access that is not admitted faults, and only a command in a block that does not cover the command
word is refused. -/
theorem accessAdmittedIffAlignedWord : Obligations.AccessAdmittedIffAlignedWord := by
  intro s a n v e rest hs he
  rw [step_event hs, ← admitted_iff]
  refine ⟨fun ha => ?_, fun ha => ?_⟩
  · obtain rfl | rfl := he
    · rw [serve_read ha]
      exact ⟨nofun, fun _ => ⟨_, rfl⟩⟩
    · rw [serve_write ha]
      obtain ⟨t, ht⟩ | ⟨hc, ha0, ht⟩ := writeAt_next_or_refused a v { s with pending := rest }
      · rw [ht]
        exact ⟨nofun, fun _ => ⟨t, rfl⟩⟩
      · rw [ht]
        refine ⟨nofun, fun h => ?_⟩
        obtain h | h | h := h
        · exact absurd h hc
        · exact absurd ha0 h
        · cases h
  · obtain rfl | rfl := he <;> simp [serve, ha]

/-- Settles O13, by the event each step serves. -/
theorem idleReadAndResetSteps : Obligations.IdleReadAndResetSteps :=
  ⟨fun _ => step_idle,
    fun _ _ _ hs ha => (step_event hs).trans (serve_read (admitted_iff.mpr ⟨rfl, Nat.dvd_of_mod_eq_zero ha⟩)),
    fun _ _ hs => ⟨_, step_event hs, rfl, rfl⟩⟩

end Sys2Proof.Serving
end

section
/-! The fields of a command word under a mask (30_encoding R90, R91). -/

namespace Sys2Proof.Encoding

open Sys2Proof.Laws

/-! ### Fields under a mask -/

theorem ofWord_injective {w w' : Word} (h : C32.ofWord w = C32.ofWord w') : w = w' := by
  rw [← word_ofWord w, h, word_ofWord]

/-- A mask of fields of C32, each (place, width) used whole or not at all, and neither the opcode nor `RSV` among them. -/
def WholeFields (u : Word) : Prop :=
  u.extractLsb' 26 6 = 0 ∧ u.extractLsb' 0 8 = 0 ∧
    ∀ p ∈ [(24, 2), (22, 2), (21, 1), (20, 1), (19, 1), (18, 1), (16, 2), (15, 1), (10, 5), (8, 2)],
      u.extractLsb' p.1 p.2 = 0 ∨ u.extractLsb' p.1 p.2 = BitVec.allOnes p.2

/-- A field of a word where the mask `u` uses it, else 0. -/
def usedField {n : Nat} (u : Word) (lo : Nat) (v : BitVec n) : BitVec n :=
  if u.extractLsb' lo n = 0 then 0 else v

/-- The fields of `c` with those a row does not use set to 0. -/
def onlyUsed (u : Word) (c : C32) : C32 where
  opc := c.opc
  bf := usedField u 24 c.bf
  bf2 := usedField u 22 c.bf2
  fs := usedField u 21 c.fs
  flag := usedField u 20 c.flag
  vsel := usedField u 19 c.vsel
  val := usedField u 18 c.val
  kind := usedField u 16 c.kind
  fsel := usedField u 15 c.fsel
  field := usedField u 10 c.field
  phase := usedField u 8 c.phase

/-- A field under a mask that uses it whole or not at all. -/
theorem and_eq_usedField {n lo : Nat} {u : Word} {v : BitVec n}
    (h : u.extractLsb' lo n = 0 ∨ u.extractLsb' lo n = BitVec.allOnes n) :
    v &&& u.extractLsb' lo n = usedField u lo v := by
  unfold usedField
  obtain h | h := h
  · simp [h]
  · rw [h, BitVec.and_allOnes]
    split
    · next h0 => simpa [h0] using (BitVec.and_allOnes (x := v)).symm
    · rfl

/-- A mask of whole fields keeps the opcode and the fields used. -/
theorem ofWord_and_mask {u : Word} (hu : WholeFields u) (w : Word) :
    C32.ofWord (w &&& (maskOpc ||| u)) = onlyUsed u (C32.ofWord w) := by
  obtain ⟨hopc, hrsv, hfields⟩ := hu
  simp only [List.forall_mem_cons] at hfields
  obtain ⟨hbf, hbf2, hfs, hflag, hvsel, hval, hkind, hfsel, hfield, hphase, -⟩ := hfields
  simp only [C32.ofWord, onlyUsed, C32.mk.injEq, BitVec.extractLsb'_and, BitVec.extractLsb'_or, maskOpc, hopc, hrsv]
  simp only [BitVec.reduceExtractLsb', BitVec.zero_or]
  exact ⟨BitVec.and_allOnes, and_eq_usedField hbf, and_eq_usedField hbf2, and_eq_usedField hfs, and_eq_usedField hflag,
    and_eq_usedField hvsel, and_eq_usedField hval, and_eq_usedField hkind, and_eq_usedField hfsel, and_eq_usedField hfield,
    and_eq_usedField hphase, BitVec.and_zero⟩

theorem and_not_eq_zero_iff (w m : Word) : w &&& ~~~m = 0 ↔ w &&& m = w := by
  simp only [BitVec.eq_of_getLsbD_eq_iff, BitVec.getLsbD_and, BitVec.getLsbD_not]
  refine forall₂_congr fun i hi => ?_
  simp only [hi, decide_true, Bool.true_and]
  cases w.getLsbD i <;> simp

/-- The fields a row does not use are 0 exactly where the mask of those it uses keeps the word (30_encoding R91). -/
theorem unused_zero_iff {u : Word} (hu : WholeFields u) (w : Word) :
    w &&& ~~~(maskOpc ||| u) = 0 ↔ onlyUsed u (C32.ofWord w) = C32.ofWord w := by
  rw [and_not_eq_zero_iff, ← ofWord_and_mask hu]
  exact ⟨congrArg C32.ofWord, ofWord_injective⟩

end Sys2Proof.Encoding
end

section
/-! The codes of the operand values, and reading the operands of a command word: where each is legal, what its fields then
hold, and reading it back from the fields of a command (30_encoding R91, R95 to R98). -/

namespace Sys2Proof.Encoding

/-! ### Codes -/

/-- Codes 0 to 27 are those of the tags, and no other (30_encoding R95). -/
theorem map_code_ofCode (c : BitVec 5) : (Tag.ofCode c).map Tag.code = if c.toNat < 28 then some c else none := by
  revert c
  decide

@[simp] theorem tag_ofCode_code (t : Tag) : Tag.ofCode t.code = some t := by cases t <;> rfl

/-- Codes 0 to 2 are those of the stuff-kind selectors, and no other (30_encoding R97). -/
theorem map_code_kind (c : BitVec 2) : (KindSel.ofCode c).map KindSel.code = if c = 3#2 then none else some c := by
  revert c
  decide

@[simp] theorem kind_ofCode_code (k : KindSel) : KindSel.ofCode k.code = some k := by cases k <;> rfl

@[simp] theorem phase_ofCode_code (p : Phase) : Phase.ofCode p.code = p := by cases p <;> rfl

@[simp] theorem level_ofBit_bit (v : Level) : Level.ofBit v.bit = v := by cases v <;> rfl

@[simp] theorem level_bit_ofBit (b : Bool) : (Level.ofBit b).bit = b := by cases b <;> rfl

@[simp] theorem ofBool_beq_one (b : Bool) : (BitVec.ofBool b == 1#1) = b := by cases b <;> rfl

@[simp] theorem ofBool_flagBit (c : C32) : BitVec.ofBool c.flagBit = c.flag := by
  obtain h | h := c.flag.eq_zero_or_eq_one <;> simp [C32.flagBit, h]

@[simp] theorem ofBool_bit_level (c : C32) : BitVec.ofBool c.level.bit = c.val := by
  obtain h | h := c.val.eq_zero_or_eq_one <;> simp [C32.level, h]

@[simp] theorem code_phaseOp (c : C32) : c.phaseOp.code = c.phase := by
  have hcode : ∀ p : BitVec 2, (Phase.ofCode p).code = p := by decide
  exact hcode c.phase

/-! ### Reading -/

/-- A reader of operands answers exactly where `P` holds, its answer then meets `Q`, and it never refuses for the opcode. -/
def Reads {α : Type} (x : Except DecodeError α) (P : Prop) (Q : α → Prop) : Prop :=
  match x with
  | .ok a => P ∧ Q a
  | .error e => ¬P ∧ e ≠ .reservedOpcode

section

variable {α β : Type} {P P' : Prop} {Q : α → Prop}

theorem reads_congr {x : Except DecodeError α} (hP : P ↔ P') (h : Reads x P Q) : Reads x P' Q := by
  rwa [← hP]

theorem reads_mono {Q' : α → Prop} {x : Except DecodeError α} (hQ : ∀ a, Q a → Q' a) (h : Reads x P Q) :
    Reads x P Q' := by
  cases x with
  | error e => exact h
  | ok a => exact ⟨h.1, hQ a h.2⟩

/-- A reader answers exactly where its condition holds. -/
theorem exists_ok_iff {x : Except DecodeError α} (h : Reads x P Q) : (∃ a, x = .ok a) ↔ P := by
  cases x with
  | error e => simpa using h.1
  | ok a => simpa using h.1

theorem exists_ok {x : Except DecodeError α} (h : Reads x P Q) (hP : P) : ∃ a, x = .ok a ∧ Q a := by
  cases x with
  | error e => exact absurd hP h.1
  | ok a => exact ⟨a, rfl, h.2⟩

/-- Where its condition fails, a reader refuses, and not for the opcode. -/
theorem exists_error_of_not {x : Except DecodeError α} (h : Reads x P Q) (hP : ¬P) :
    ∃ e, x = .error e ∧ e ≠ .reservedOpcode := by
  cases x with
  | error e => exact ⟨e, rfl, h.2⟩
  | ok a => exact absurd h.1 hP

theorem reads_bind {x : Except DecodeError α} {g : α → Except DecodeError β} {Q' : β → Prop} (hx : Reads x P Q)
    (hg : ∀ a, Q a → Reads (g a) P' Q') : Reads (x >>= g) (P ∧ P') Q' := by
  cases x with
  | error e => exact ⟨fun h => hx.1 h.1, hx.2⟩
  | ok a =>
    show Reads (g a) (P ∧ P') Q'
    exact reads_congr (and_iff_right hx.1).symm (hg a hx.2)

/-- The last operand read, put into a command. -/
theorem reads_map {x : Except DecodeError α} {g : α → β} {Q' : β → Prop} (hx : Reads x P Q)
    (hg : ∀ a, Q a → Q' (g a)) : Reads (x >>= fun a => return g a) P Q' :=
  reads_congr (and_iff_left trivial) <| reads_bind hx fun a ha => ⟨trivial, hg a ha⟩

end

/-- A code is the code of a tag, below 28, or reserved (30_encoding R95). -/
theorem tag_ofCode_cases (c : BitVec 5) :
    (∃ t, Tag.ofCode c = some t ∧ c = t.code ∧ c.toNat < 28) ∨ (Tag.ofCode c = none ∧ ¬ c.toNat < 28) := by
  have hmap := map_code_ofCode c
  split at hmap
  · next hlt =>
    obtain ⟨t, ht, hc⟩ := Option.map_eq_some_iff.mp hmap
    exact .inl ⟨t, ht, hc.symm, hlt⟩
  · next hge => exact .inr ⟨Option.map_eq_none_iff.mp hmap, hge⟩

/-- A mandatory field operand (30_encoding R91, R95). -/
theorem fieldOp_reads (c : C32) :
    Reads c.fieldOp (c.fsel = 1 ∧ c.field.toNat < 28) fun t => c.fsel = 1 ∧ c.field = t.code := by
  obtain h0 | h1 := c.fsel.eq_zero_or_eq_one
  · simp [C32.fieldOp, Reads, h0]
  · obtain ⟨t, ht, hcode, hlt⟩ | ⟨ht, hge⟩ := tag_ofCode_cases c.field
    · simp [C32.fieldOp, Reads, h1, hcode, hcode ▸ hlt]
    · simpa [C32.fieldOp, Reads, h1, ht] using hge

/-- An optional field operand (30_encoding R91, R95). -/
theorem fieldOpt_reads (c : C32) :
    Reads c.fieldOpt ((c.fsel = 0 → c.field = 0) ∧ (c.fsel = 1 → c.field.toNat < 28)) fun t =>
      c.fsel = BitVec.ofBool t.isSome ∧ c.field = (t.map Tag.code).getD 0 := by
  obtain h0 | h1 := c.fsel.eq_zero_or_eq_one
  · by_cases hf : c.field = 0#5 <;> simp [C32.fieldOpt, Reads, h0, hf]
  · obtain ⟨t, ht, hcode, hlt⟩ | ⟨ht, hge⟩ := tag_ofCode_cases c.field
    · simp [C32.fieldOpt, Reads, h1, hcode, hcode ▸ hlt]
    · simpa [C32.fieldOpt, Reads, h1, ht] using hge

/-- An optional value filter (30_encoding R91). -/
theorem filterOpt_reads (c : C32) : Reads c.filterOpt (c.vsel = 0 → c.val = 0) fun v =>
    c.vsel = BitVec.ofBool v.isSome ∧ c.val = (v.map fun v => BitVec.ofBool v.bit).getD 0 := by
  obtain h0 | h1 := c.vsel.eq_zero_or_eq_one
  · by_cases hv : c.val = 0#1 <;> simp [C32.filterOpt, Reads, h0, hv]
  · simp [C32.filterOpt, Reads, h1]

/-- A stuff-kind selector (30_encoding R97). -/
theorem kindOp_reads (c : C32) : Reads c.kindOp (c.kind ≠ 3#2) fun k => c.kind = k.code := by
  have hmap := map_code_kind c.kind
  split at hmap
  · next h3 => simp [C32.kindOp, Reads, h3, KindSel.ofCode]
  · next h3 =>
    obtain ⟨k, hk, hc⟩ := Option.map_eq_some_iff.mp hmap
    simp [C32.kindOp, Reads, hk, hc, h3]

/-! ### Reading operands back from the fields of a command -/

section

variable {c : C32}

theorem flagBit_of {b : Bool} (h : c.flag = BitVec.ofBool b) : c.flagBit = b := by cases b <;> simp [C32.flagBit, h]

theorem level_of {v : Level} (h : c.val = BitVec.ofBool v.bit) : c.level = v := by simp [C32.level, h]

theorem phaseOp_of {p : Phase} (h : c.phase = p.code) : c.phaseOp = p := by simp [C32.phaseOp, h]

theorem kindOp_of {k : KindSel} (h : c.kind = k.code) : c.kindOp = .ok k := by simp [C32.kindOp, h]

theorem fieldOp_of {t : Tag} (hsel : c.fsel = 1) (h : c.field = t.code) : c.fieldOp = .ok t := by
  simp [C32.fieldOp, hsel, h]

theorem fieldOpt_of {t : Option Tag} (hsel : c.fsel = BitVec.ofBool t.isSome) (h : c.field = (t.map Tag.code).getD 0) :
    c.fieldOpt = .ok t := by
  cases t <;> simp_all [C32.fieldOpt]

theorem filterOpt_of {v : Option Level} (hsel : c.vsel = BitVec.ofBool v.isSome)
    (h : c.val = (v.map fun v => BitVec.ofBool v.bit).getD 0) : c.filterOpt = .ok v := by
  cases v with
  | none => simp_all [C32.filterOpt]
  | some v => simp [C32.filterOpt, hsel, level_of h]

/-- One operand read, and the rest of the reader run on it. -/
theorem bind_of {α β : Type} {x : Except DecodeError α} {g : α → Except DecodeError β} {a : α} {b : β}
    (hx : x = .ok a) (hg : g a = .ok b) : x >>= g = .ok b := by
  rw [hx]
  exact hg

/-- The operands of FORCE_TQ and FORCE_CYCLE. -/
theorem force_of {f : Bool → Phase → Level → Instr} {b : Bool} {p : Phase} {v : Level} (hb : c.flag = BitVec.ofBool b)
    (hp : c.phase = p.code) (hv : c.val = BitVec.ofBool v.bit) : f c.flagBit c.phaseOp c.level = f b p v := by
  rw [flagBit_of hb, phaseOp_of hp, level_of hv]

end

/-! ### Writing operands into the fields of a command -/

/-- An optional field operand sets `FSEL` where it is there, and `FIELD` to its code. -/
theorem withFieldOpt_eq {c : C32} (hsel : c.fsel = 0) (hfield : c.field = 0) (t : Option Tag) :
    c.withFieldOpt t = { c with fsel := BitVec.ofBool t.isSome, field := (t.map Tag.code).getD 0 } := by
  cases t with
  | none => cases c; cases hsel; cases hfield; rfl
  | some t => rfl

/-- An optional value filter sets `VSEL` where it is there, and `VAL` to its bit. -/
theorem withFilter_eq {c : C32} (hsel : c.vsel = 0) (hval : c.val = 0) (v : Option Level) :
    c.withFilter v = { c with vsel := BitVec.ofBool v.isSome, val := (v.map fun v => BitVec.ofBool v.bit).getD 0 } := by
  cases v with
  | none => cases c; cases hsel; cases hval; rfl
  | some v => rfl

end Sys2Proof.Encoding
end

section
/-! The rows of the opcode map: every row reads its operands exactly where they are legal, into the command whose fields it
read, and every command is what its own row reads from its fields (30_encoding R91, R93). -/

namespace Sys2Proof.Encoding

/-- The opcodes whose row marks the field operand as mandatory, `FSEL=1` (30_encoding R93). -/
def fieldOpcodes : List (BitVec 6) := [0x17, 0x18, 0x19, 0x20, 0x23]

/-- The opcodes whose `VAL` is a filter (30_encoding R91, R93). -/
def filterOpcodes : List (BitVec 6) := [0x19, 0x1A, 0x1C]

/-- The operand rules on the fields of a word: those of `legalOperands`, and `FSEL` where the field is mandatory. -/
def FieldsLegal (c : C32) : Prop :=
  (c.opc ∈ fieldOpcodes → c.fsel = 1) ∧ (c.fsel = 0 → c.field = 0) ∧ (c.fsel = 1 → c.field.toNat < 28) ∧ c.kind ≠ 3 ∧
    (c.opc ∈ filterOpcodes → c.vsel = 0 → c.val = 0)

/-- A row reads words with its opcode, and 0 where it uses no field, exactly where their operands are legal, into the command
that has just these fields. -/
def RowReads (r : OpRow) : Prop :=
  ∀ c : C32, c.opc = r.opc → onlyUsed r.uses c = c → Reads (r.read c) (FieldsLegal c) fun i => i.c32 = c

/-! ### Rows whose operands are always readable -/

theorem usedField_unused {n lo : Nat} {u : Word} (h : u.extractLsb' lo n = 0) (v : BitVec n) : usedField u lo v = 0 :=
  if_pos h

theorem kind_unused {u : Word} {c : C32} (hu : onlyUsed u c = c) (h : u.extractLsb' 16 2 = 0) : c.kind = 0 :=
  (congrArg C32.kind hu).symm.trans (usedField_unused h _)

theorem fsel_unused {u : Word} {c : C32} (hu : onlyUsed u c = c) (h : u.extractLsb' 15 1 = 0) : c.fsel = 0 :=
  (congrArg C32.fsel hu).symm.trans (usedField_unused h _)

theorem field_unused {u : Word} {c : C32} (hu : onlyUsed u c = c) (h : u.extractLsb' 10 5 = 0) : c.field = 0 :=
  (congrArg C32.field hu).symm.trans (usedField_unused h _)

/-- A row without `KIND`, `FSEL` and `FIELD`, and with no value filter, has no illegal operands. -/
theorem plain_reads {opc : BitVec 6} {u : Word} {f : C32 → Instr}
    (h : (u.extractLsb' 16 2 = 0 ∧ u.extractLsb' 15 1 = 0 ∧ u.extractLsb' 10 5 = 0) ∧ opc ∉ fieldOpcodes ∧
      opc ∉ filterOpcodes)
    (hf : ∀ c, (f c).c32 = { onlyUsed u c with opc := opc }) : RowReads (.plain opc u f) := by
  intro c hopc hu
  obtain ⟨⟨hkind, hfsel, hfield⟩, hnofield, hnofilter⟩ := h
  replace hopc : c.opc = opc := hopc
  replace hu : onlyUsed u c = c := hu
  have hkind := kind_unused hu hkind
  have hfsel := fsel_unused hu hfsel
  have hfield := field_unused hu hfield
  refine ⟨⟨fun h => absurd (hopc ▸ h) hnofield, fun _ => hfield, fun _ => ?_, ?_, fun h => absurd (hopc ▸ h) hnofilter⟩, ?_⟩
  · simp [hfield]
  · simp [hkind]
  · exact (hf c).trans (by rw [hu, ← hopc])

/-- A row that uses `BF` alone. -/
theorem onBf_reads {opc : BitVec 6} {f : BfIx → Instr} (h : opc ∉ fieldOpcodes ∧ opc ∉ filterOpcodes)
    (hf : ∀ bf, (f bf).c32 = { opc := opc, bf := .ofFin bf }) : RowReads (.onBf opc f) :=
  plain_reads ⟨by decide, h⟩ fun c => hf c.bfIx

/-- A row that uses `BF` and `PHASE`. -/
theorem onPhase_reads {opc : BitVec 6} {f : BfIx → Phase → Instr} (h : opc ∉ fieldOpcodes ∧ opc ∉ filterOpcodes)
    (hf : ∀ bf p, (f bf p).c32 = { opc := opc, bf := .ofFin bf, phase := p.code }) : RowReads (.onPhase opc f) :=
  plain_reads ⟨by decide, h⟩ fun c => (hf c.bfIx c.phaseOp).trans (by rw [code_phaseOp]; rfl)

/-! ### Rows that can refuse their operands -/

section

variable {opc : BitVec 6} {u : Word} {c : C32}

theorem rowReads_mk {read : C32 → Except DecodeError Instr}
    (h : ∀ c : C32, c.opc = opc → onlyUsed u c = c → Reads (read c) (FieldsLegal c) fun i => i.c32 = c) :
    RowReads ⟨opc, u, read⟩ := h

/-- The operand rules of a row with a mandatory field and no `KIND`. -/
theorem fieldsLegal_of_fieldOpcode (hc : c.opc = opc) (ho : opc ∈ fieldOpcodes) (hk : c.kind = 0) :
    FieldsLegal c ↔ (c.fsel = 1 ∧ c.field.toNat < 28) ∧ (opc ∈ filterOpcodes → c.vsel = 0 → c.val = 0) := by
  obtain h | h := c.fsel.eq_zero_or_eq_one <;> simp [FieldsLegal, hc, ho, hk, h]

/-- The operand rules of a row without a mandatory field. -/
theorem fieldsLegal_of_not_fieldOpcode (hc : c.opc = opc) (ho : opc ∉ fieldOpcodes) :
    FieldsLegal c ↔ ((c.fsel = 0 → c.field = 0) ∧ (c.fsel = 1 → c.field.toNat < 28)) ∧ c.kind ≠ 3 ∧
      (opc ∈ filterOpcodes → c.vsel = 0 → c.val = 0) := by
  simp [FieldsLegal, hc, ho, and_assoc]

end

/-- A row whose one operand beside the slot is a mandatory field. -/
theorem onField_reads {opc : BitVec 6} {f : BfIx → Tag → Instr} (ho : opc ∈ fieldOpcodes ∧ opc ∉ filterOpcodes)
    (hf : ∀ bf t, (f bf t).c32 = ({ opc := opc, bf := .ofFin bf } : C32).withField t) :
    RowReads ⟨opc, maskBf ||| maskFsel ||| maskField, fun c => do return f c.bfIx (← c.fieldOp)⟩ := by
  refine rowReads_mk fun c hopc hu => reads_congr ?_ <| reads_map (fieldOp_reads c) fun t ht => ?_
  · simp [fieldsLegal_of_fieldOpcode hopc ho.1 (kind_unused hu (by decide)), ho.2]
  · refine (hf _ t).trans (.trans ?_ hu)
    rw [C32.withField, ← ht.1, ← ht.2, ← hopc]
    rfl

/-- A row with a mandatory field and a bit value. -/
theorem onFieldLevel_reads {opc : BitVec 6} {f : BfIx → Tag → Level → Instr}
    (ho : opc ∈ fieldOpcodes ∧ opc ∉ filterOpcodes)
    (hf : ∀ bf t v, (f bf t v).c32 = (({ opc := opc, bf := .ofFin bf } : C32).withField t).withLevel v) :
    RowReads ⟨opc, maskBf ||| maskFsel ||| maskField ||| maskVal, fun c => do return f c.bfIx (← c.fieldOp) c.level⟩ := by
  refine rowReads_mk fun c hopc hu => reads_congr ?_ <| reads_map (fieldOp_reads c) fun t ht => ?_
  · simp [fieldsLegal_of_fieldOpcode hopc ho.1 (kind_unused hu (by decide)), ho.2]
  · refine (hf _ t _).trans (.trans ?_ hu)
    rw [C32.withLevel, C32.withField, ofBool_bit_level, ← ht.1, ← ht.2, ← hopc]
    rfl

theorem getRandomBitOf_reads : RowReads ⟨0x19, maskBf ||| maskFsel ||| maskField ||| maskVsel ||| maskVal,
    fun c => do return .getRandomBitOf c.bfIx (← c.fieldOp) (← c.filterOpt)⟩ := by
  refine rowReads_mk fun c hopc hu => reads_congr ?_ <| reads_bind (fieldOp_reads c) fun t ht =>
    reads_map (filterOpt_reads c) fun v hv => ?_
  · simp [fieldsLegal_of_fieldOpcode hopc (by decide) (kind_unused hu (by decide)), filterOpcodes]
  · refine .trans ?_ hu
    rw [Instr.c32, withFilter_eq rfl rfl, C32.withField, ← hv.1, ← hv.2, ← ht.1, ← ht.2, ← hopc]
    rfl

theorem getStuffBit_reads : RowReads ⟨0x1A, maskBf ||| maskKind ||| maskVsel ||| maskVal,
    fun c => do return .getStuffBit c.bfIx (← c.kindOp) (← c.filterOpt)⟩ := by
  refine rowReads_mk fun c hopc hu => reads_congr ?_ <| reads_bind (kindOp_reads c) fun k hk =>
    reads_map (filterOpt_reads c) fun v hv => ?_
  · simp [fieldsLegal_of_not_fieldOpcode hopc (by decide), fsel_unused hu (by decide), field_unused hu (by decide),
      filterOpcodes]
  · refine .trans ?_ hu
    rw [Instr.c32, withFilter_eq rfl rfl, ← hv.1, ← hv.2, ← hk, ← hopc]
    rfl

theorem getNumStuff_reads : RowReads ⟨0x1C, maskBf ||| maskKind ||| maskFsel ||| maskField ||| maskVsel ||| maskVal,
    fun c => do return .getNumStuff c.bfIx (← c.kindOp) (← c.fieldOpt) (← c.filterOpt)⟩ := by
  refine rowReads_mk fun c hopc hu => reads_congr ?_ <| reads_bind (kindOp_reads c) fun k hk =>
    reads_bind (fieldOpt_reads c) fun t ht => reads_map (filterOpt_reads c) fun v hv => ?_
  · simp [fieldsLegal_of_not_fieldOpcode hopc (by decide), filterOpcodes, and_left_comm]
  · refine .trans ?_ hu
    rw [Instr.c32, withFieldOpt_eq rfl rfl, withFilter_eq rfl rfl, ← hv.1, ← hv.2, ← ht.1, ← ht.2, ← hk, ← hopc]
    rfl

theorem removeBit_reads : RowReads ⟨0x22, maskBf ||| maskFlag ||| maskFsel ||| maskField,
    fun c => do return .removeBit c.bfIx c.flagBit (← c.fieldOpt)⟩ := by
  refine rowReads_mk fun c hopc hu => reads_congr ?_ <| reads_map (fieldOpt_reads c) fun t ht => ?_
  · simp [fieldsLegal_of_not_fieldOpcode hopc (by decide), kind_unused hu (by decide), filterOpcodes]
  · refine .trans ?_ hu
    rw [Instr.c32, withFieldOpt_eq rfl rfl, ofBool_flagBit, ← ht.1, ← ht.2, ← hopc]
    rfl

/-! ### All rows, in the order of the opcode map -/

theorem rowsConfig_read : ∀ r ∈ rowsConfig, RowReads r := by
  simp only [rowsConfig, List.forall_mem_cons]
  refine ⟨plain_reads (by decide) fun _ => rfl, plain_reads (by decide) fun _ => rfl, plain_reads (by decide) fun _ => rfl,
    plain_reads (by decide) fun _ => rfl, plain_reads (by decide) fun _ => rfl, plain_reads (by decide) fun _ => rfl,
    plain_reads (by decide) fun _ => rfl, plain_reads (by decide) fun _ => rfl, plain_reads (by decide) fun _ => rfl,
    plain_reads (by decide) fun c => ?_, plain_reads (by decide) fun c => ?_, nofun⟩
  all_goals simp only [Instr.c32, ofBool_flagBit]; rfl

theorem rowsQuery_read : ∀ r ∈ rowsQuery, RowReads r := by
  simp only [rowsQuery, List.forall_mem_cons]
  refine ⟨plain_reads (by decide) fun _ => rfl, plain_reads (by decide) fun c => ?_, onBf_reads (by decide) fun _ => rfl,
    onBf_reads (by decide) fun _ => rfl, onBf_reads (by decide) fun _ => rfl, onBf_reads (by decide) fun _ => rfl,
    onBf_reads (by decide) fun _ => rfl, onField_reads (by decide) fun _ _ => rfl, onField_reads (by decide) fun _ _ => rfl,
    getRandomBitOf_reads, getStuffBit_reads, onBf_reads (by decide) fun _ => rfl, getNumStuff_reads, nofun⟩
  simp only [Instr.c32, ofBool_flagBit]; rfl

theorem rowsEdit_read : ∀ r ∈ rowsEdit, RowReads r := by
  simp only [rowsEdit, List.forall_mem_cons]
  exact ⟨onFieldLevel_reads (by decide) fun _ _ _ => rfl, plain_reads (by decide) fun _ => rfl, removeBit_reads,
    onFieldLevel_reads (by decide) fun _ _ _ => rfl, plain_reads (by decide) fun _ => rfl, onBf_reads (by decide) fun _ => rfl,
    onBf_reads (by decide) fun _ => rfl, onBf_reads (by decide) fun _ => rfl, onBf_reads (by decide) fun _ => rfl,
    onBf_reads (by decide) fun _ => rfl, onBf_reads (by decide) fun _ => rfl, onBf_reads (by decide) fun _ => rfl,
    onBf_reads (by decide) fun _ => rfl, onBf_reads (by decide) fun _ => rfl, nofun⟩

theorem rowsTiming_read : ∀ r ∈ rowsTiming, RowReads r := by
  simp only [rowsTiming, List.forall_mem_cons]
  refine ⟨onPhase_reads (by decide) fun _ _ => rfl, onPhase_reads (by decide) fun _ _ => rfl,
    plain_reads (by decide) fun c => ?_, plain_reads (by decide) fun c => ?_, onPhase_reads (by decide) fun _ _ => rfl,
    onPhase_reads (by decide) fun _ _ => rfl, onPhase_reads (by decide) fun _ _ => rfl, onBf_reads (by decide) fun _ => rfl, nofun⟩
  all_goals simp only [Instr.c32, C32.withLevel, ofBool_flagBit, ofBool_bit_level, code_phaseOp]; rfl

theorem opRows_read : ∀ r ∈ opRows, RowReads r := by
  simp only [opRows, List.forall_mem_append]
  exact ⟨⟨⟨rowsConfig_read, rowsQuery_read⟩, rowsEdit_read⟩, rowsTiming_read⟩

/-! ### The row of a command -/

/-- Row `r` is found for command `i`, uses every field the command sets, and reads the command from them. -/
structure OwnRow (i : Instr) (r : OpRow) : Prop where
  find : opRows.find? (fun r => r.opc == i.c32.opc) = some r
  used : onlyUsed r.uses i.c32 = i.c32
  read : r.read i.c32 = .ok i

/-- The row of a command whose fields are `c`. -/
theorem ownRow_of {i : Instr} {c : C32} {r : OpRow} (hc : i.c32 = c)
    (hfind : opRows.find? (fun r => r.opc == c.opc) = some r) (hused : onlyUsed r.uses c = c)
    (hread : r.read c = .ok i) : OwnRow i r := by
  subst hc
  exact ⟨hfind, hused, hread⟩

/-- Every command has a row of its own. -/
theorem exists_ownRow (i : Instr) : ∃ r, OwnRow i r := by
  cases i with
  | dlcToLen flag => exact ⟨_, rfl, rfl, congrArg Except.ok (congrArg Instr.dlcToLen (flagBit_of rfl))⟩
  | lenToDlc flag => exact ⟨_, rfl, rfl, congrArg Except.ok (congrArg Instr.lenToDlc (flagBit_of rfl))⟩
  | update bf flag => exact ⟨_, rfl, rfl, congrArg Except.ok (congrArg (Instr.update bf) (flagBit_of rfl))⟩
  | getBitOf bf t => exact ⟨_, rfl, rfl, bind_of (fieldOp_of rfl rfl) rfl⟩
  | getBitOfNs bf t => exact ⟨_, rfl, rfl, bind_of (fieldOp_of rfl rfl) rfl⟩
  | getRandomBitOf bf t v =>
    exact ⟨_, ownRow_of (withFilter_eq rfl rfl v) rfl rfl <|
      bind_of (fieldOp_of rfl rfl) <| bind_of (filterOpt_of rfl rfl) rfl⟩
  | getStuffBit bf k v =>
    exact ⟨_, ownRow_of (withFilter_eq rfl rfl v) rfl rfl <|
      bind_of (kindOp_of rfl) <| bind_of (filterOpt_of rfl rfl) rfl⟩
  | getNumStuff bf k t v =>
    refine ⟨_, ownRow_of (by rw [Instr.c32, withFieldOpt_eq rfl rfl, withFilter_eq rfl rfl]) rfl rfl <|
      bind_of (kindOp_of rfl) <| bind_of (fieldOpt_of rfl rfl) ?_⟩
    exact bind_of (filterOpt_of rfl rfl) rfl
  | insertBit bf t v =>
    exact ⟨_, rfl, rfl, bind_of (fieldOp_of rfl rfl) <|
      congrArg Except.ok (congrArg (Instr.insertBit bf t) (level_of rfl))⟩
  | removeBit bf flag t =>
    exact ⟨_, ownRow_of (withFieldOpt_eq rfl rfl t) rfl rfl <| bind_of (fieldOpt_of rfl rfl) <|
      congrArg Except.ok (congrArg (Instr.removeBit bf · t) (flagBit_of rfl))⟩
  | appendBit bf t v =>
    exact ⟨_, rfl, rfl, bind_of (fieldOp_of rfl rfl) <|
      congrArg Except.ok (congrArg (Instr.appendBit bf t) (level_of rfl))⟩
  | lengthen bf p => exact ⟨_, rfl, rfl, congrArg Except.ok (congrArg (Instr.lengthen bf) (phaseOp_of rfl))⟩
  | shorten bf p => exact ⟨_, rfl, rfl, congrArg Except.ok (congrArg (Instr.shorten bf) (phaseOp_of rfl))⟩
  | forceTq bf flag p v => exact ⟨_, rfl, rfl, congrArg Except.ok (force_of (f := Instr.forceTq bf) rfl rfl rfl)⟩
  | forceCycle bf flag p v => exact ⟨_, rfl, rfl, congrArg Except.ok (force_of (f := Instr.forceCycle bf) rfl rfl rfl)⟩
  | firstTq bf p => exact ⟨_, rfl, rfl, congrArg Except.ok (congrArg (Instr.firstTq bf) (phaseOp_of rfl))⟩
  | lastTq bf p => exact ⟨_, rfl, rfl, congrArg Except.ok (congrArg (Instr.lastTq bf) (phaseOp_of rfl))⟩
  | prevPhase bf p => exact ⟨_, rfl, rfl, congrArg Except.ok (congrArg (Instr.prevPhase bf) (phaseOp_of rfl))⟩
  | _ => exact ⟨_, rfl, rfl, rfl⟩

end Sys2Proof.Encoding
end

section
/-! The decoder: which row it takes for a word, what it answers there, and so the two round trips, the words it accepts and
the errors of those it refuses (30_encoding R90 to R97, R104 steps 2 to 4). -/

namespace Sys2Proof.Encoding

open Sys2Proof.Machine Sys2Proof.Laws Sys2Proof.HostSide

/-! ### The row of a word -/

theorem opRows_wholeFields : ∀ r ∈ opRows, WholeFields r.uses := by
  unfold WholeFields
  decide

theorem opRows_nodup : (opRows.map OpRow.opc).Nodup := by decide

/-- The decoder finds the one row with the opcode of the word. -/
theorem find_row {r : OpRow} (hr : r ∈ opRows) : opRows.find? (fun r' => r'.opc == r.opc) = some r := by
  cases hfind : opRows.find? fun r' => r'.opc == r.opc with
  | none => exact absurd BEq.rfl (List.find?_eq_none.mp hfind r hr)
  | some r' =>
    have hopc : r'.opc = r.opc := by simpa using List.find?_some hfind
    rw [List.inj_on_of_nodup_map opRows_nodup (List.mem_of_find?_eq_some hfind) hr hopc]

theorem decode_row {w : Word} {r : OpRow} (hfind : opRows.find? (fun r => r.opc == w.extractLsb' 26 6) = some r) :
    decode w = if onlyUsed r.uses (C32.ofWord w) = C32.ofWord w then r.read (C32.ofWord w) else .error .unusedNonZero := by
  simp only [decode, hfind, unused_zero_iff (opRows_wholeFields r (List.mem_of_find?_eq_some hfind))]

/-- A word with the opcode of a row decodes exactly where it has 0 in the fields the row does not use and its operands are
legal, and then to the command whose word it is. -/
theorem decode_reads {w : Word} {r : OpRow} (hr : r ∈ opRows) (ho : w.extractLsb' 26 6 = r.opc) :
    Reads (decode w) (onlyUsed r.uses (C32.ofWord w) = C32.ofWord w ∧ FieldsLegal (C32.ofWord w)) fun i => encode i = w := by
  rw [decode_row (ho ▸ find_row hr)]
  split
  · next hu =>
    refine reads_congr (and_iff_right hu).symm <| reads_mono (fun i hi => ?_) (opRows_read r hr (C32.ofWord w) ho hu)
    rw [encode, hi, word_ofWord]
  · next hu => exact ⟨fun h => hu h.1, nofun⟩

/-- The reserved opcodes are those of no row (30_encoding R94). -/
theorem mem_reservedOpcodes_iff : ∀ o : BitVec 6, o.toNat ∈ reservedOpcodes ↔ ∀ r ∈ opRows, r.opc ≠ o := by decide

/-- A word with a reserved opcode is refused for it. -/
theorem decode_reserved {w : Word} (h : (w.extractLsb' 26 6).toNat ∈ reservedOpcodes) : decode w = .error .reservedOpcode := by
  have hfind : opRows.find? (fun r => r.opc == w.extractLsb' 26 6) = none :=
    List.find?_eq_none.mpr (by simpa using (mem_reservedOpcodes_iff _).mp h)
  simp only [decode, hfind]

theorem exists_row {o : BitVec 6} (h : o.toNat ∉ reservedOpcodes) : ∃ r ∈ opRows, o = r.opc := by
  simpa [mem_reservedOpcodes_iff, eq_comm] using h

/-! ### The round trips -/

/-- Settles O1: the row of a command finds 0 in the fields it does not use, and reads the command from the others. -/
theorem decodeOfEncode : Obligations.DecodeOfEncode := by
  intro i
  obtain ⟨r, hfind, hused, hread⟩ := exists_ownRow i
  have hc : C32.ofWord (encode i) = i.c32 := ofWord_word i.c32
  have hopc : (encode i).extractLsb' 26 6 = i.c32.opc := opc_word i.c32
  rw [decode_row (hopc ▸ hfind), hc, if_pos hused, hread]

/-- Settles O2: the row that reads a word reads it into the command with the fields of the word. -/
theorem encodeOfDecode : Obligations.EncodeOfDecode := by
  intro w i h
  by_cases hres : (w.extractLsb' 26 6).toNat ∈ reservedOpcodes
  · cases (decode_reserved hres).symm.trans h
  · obtain ⟨r, hr, ho⟩ := exists_row hres
    have hreads := decode_reads hr ho
    rw [h] at hreads
    exact hreads.2

/-! ### The opcode table -/

/-- Two conditions on a word under masks with no bit in common are one. -/
theorem and_or_eq_or_iff {w m m' v v' : Word} (hm : m &&& m' = 0) (hv : v &&& m = v) (hv' : v' &&& m' = v') :
    w &&& (m ||| m') = v ||| v' ↔ w &&& m = v ∧ w &&& m' = v' := by
  have hzero : v' &&& m = 0 ∧ v &&& m' = 0 := by
    rw [← hv, ← hv', BitVec.and_assoc, BitVec.and_assoc, hm, BitVec.and_comm m' m, hm]
    simp
  constructor
  · intro h
    constructor
    · have := congrArg (· &&& m) h
      simpa [BitVec.and_assoc, BitVec.and_or_distrib_right, BitVec.and_comm m' m, hm, hv, hzero] using this
    · have := congrArg (· &&& m') h
      simpa [BitVec.and_assoc, BitVec.and_or_distrib_right, hm, hv', hzero] using this
  · rintro ⟨rfl, rfl⟩
    exact BitVec.and_or_distrib_left

/-- A field has a value exactly where the mask of the field shows the value at its place. -/
theorem and_place_eq_iff {n : Nat} {w : Word} {v : BitVec n} {lo : Nat} (h : lo + n ≤ 32) :
    w &&& place (BitVec.allOnes n) lo = place v lo ↔ w.extractLsb' lo n = v := by
  constructor
  · intro hw
    have := congrArg (BitVec.extractLsb' lo n) hw
    simpa [BitVec.extractLsb'_and, RegisterMap.extractLsb'_place _ lo h] using this
  · rintro rfl
    apply BitVec.eq_of_getLsbD_eq
    intro i hi
    by_cases hlo : lo ≤ i
    · by_cases hn : i - lo < n <;> simp [getElem_place, hlo, hi, hn]
    · simp [getElem_place, hlo, hi]

/-- `FSEL` where a row marks it as set. -/
def fselMask (r : OpRow) : Word :=
  if r.opc ∈ fieldOpcodes then maskFsel else 0

/-- The (match, mask) pair of a row: its opcode, 0 in the fields it does not use, and `FSEL` where it is marked. -/
def tableRow (r : OpRow) : Word × Word :=
  (place r.opc 26 ||| (0 ||| fselMask r), maskOpc ||| (~~~(maskOpc ||| r.uses) ||| fselMask r))

theorem tableRows_eq : tableRows = opRows.map tableRow := by decide

theorem and_fselMask_iff (w : Word) (r : OpRow) :
    w &&& fselMask r = fselMask r ↔ (r.opc ∈ fieldOpcodes → (C32.ofWord w).fsel = 1) := by
  have hmask : maskFsel = place (BitVec.allOnes 1) 15 := by decide
  unfold fselMask
  split
  · next h => simp only [h, forall_true_left, hmask, and_place_eq_iff (by decide : 15 + 1 ≤ 32)]; rfl
  · next h => simp [h]

/-- A word is in the row of the table that stands for a row of the opcode map. -/
theorem and_tableRow_iff {w : Word} {r : OpRow} (hr : r ∈ opRows) : w &&& (tableRow r).2 = (tableRow r).1 ↔
    w.extractLsb' 26 6 = r.opc ∧ onlyUsed r.uses (C32.ofWord w) = C32.ofWord w ∧
      (r.opc ∈ fieldOpcodes → (C32.ofWord w).fsel = 1) := by
  have hmasks : ∀ r ∈ opRows, place r.opc 26 &&& maskOpc = place r.opc 26 ∧
      maskOpc &&& (~~~(maskOpc ||| r.uses) ||| fselMask r) = 0 ∧ ~~~(maskOpc ||| r.uses) &&& fselMask r = 0 ∧
      (0 ||| fselMask r) &&& (~~~(maskOpc ||| r.uses) ||| fselMask r) = 0 ||| fselMask r := by decide
  obtain ⟨hopc, hdisjoint, hunused, hfsel⟩ := hmasks r hr
  have hmask : maskOpc = place (BitVec.allOnes 6) 26 := by decide
  rw [tableRow, and_or_eq_or_iff hdisjoint hopc hfsel, and_or_eq_or_iff (v := 0) hunused BitVec.zero_and BitVec.and_self,
    unused_zero_iff (opRows_wholeFields r hr), and_fselMask_iff]
  nth_rw 1 [hmask]
  rw [and_place_eq_iff (by decide)]

/-- A word with the opcode of a row is in the table where it is in that row's part of it. -/
theorem inTable_iff {w : Word} {r : OpRow} (hr : r ∈ opRows) (ho : w.extractLsb' 26 6 = r.opc) : inTable w ↔
    onlyUsed r.uses (C32.ofWord w) = C32.ofWord w ∧ (r.opc ∈ fieldOpcodes → (C32.ofWord w).fsel = 1) := by
  rw [inTable, tableRows_eq]
  simp only [List.mem_map, exists_exists_and_eq_and]
  constructor
  · rintro ⟨r', hr', hw⟩
    obtain ⟨ho', hrow⟩ := (and_tableRow_iff hr').mp hw
    obtain rfl : r' = r := List.inj_on_of_nodup_map opRows_nodup hr' hr (ho'.symm.trans ho)
    exact hrow
  · exact fun hrow => ⟨r, hr, (and_tableRow_iff hr).mpr ⟨ho, hrow⟩⟩

theorem opcode_of_inTable {w : Word} (h : inTable w) : (w.extractLsb' 26 6).toNat ∉ reservedOpcodes := by
  rw [inTable, tableRows_eq] at h
  simp only [List.mem_map, exists_exists_and_eq_and] at h
  obtain ⟨r, hr, hw⟩ := h
  exact fun hres => (mem_reservedOpcodes_iff _).mp hres r hr ((and_tableRow_iff hr).mp hw).1.symm

theorem extractLsb'_one (w : Word) (k : Nat) : w.extractLsb' k 1 = BitVec.ofBool (w.getLsbD k) := by
  apply BitVec.eq_of_getLsbD_eq
  intro i hi
  obtain rfl : i = 0 := by omega
  simp

/-- The operand rules on a word and on its fields. -/
theorem fieldsLegal_iff (w : Word) : FieldsLegal (C32.ofWord w) ↔
    (w.extractLsb' 26 6 ∈ fieldOpcodes → (C32.ofWord w).fsel = 1) ∧ legalOperands w := by
  have hfilter : ∀ o : BitVec 6, o ∈ filterOpcodes ↔ o.toNat ∈ [0x19, 0x1A, 0x1C] := by decide
  have hbit : ∀ b : Bool, (BitVec.ofBool b = 0 ↔ b = false) ∧ (BitVec.ofBool b = 1 ↔ b = true) := by decide
  unfold FieldsLegal legalOperands
  simp only [hfilter]
  simp only [C32.ofWord, extractLsb'_one, hbit]

/-- A word with an opcode of the map decodes exactly where it is in the table with legal operands. -/
theorem decode_reads_table {w : Word} (h : (w.extractLsb' 26 6).toNat ∉ reservedOpcodes) :
    Reads (decode w) (inTable w ∧ legalOperands w) fun i => encode i = w := by
  obtain ⟨r, hr, ho⟩ := exists_row h
  exact reads_congr (by rw [inTable_iff hr ho, fieldsLegal_iff, ho, and_assoc]) (decode_reads hr ho)

/-- Settles O4: a word with a reserved opcode is in no row of the table, and one with another opcode decodes exactly where it
is in the table with legal operands. -/
theorem decoderAcceptsTableWords : Obligations.DecoderAcceptsTableWords := by
  intro w
  by_cases hres : (w.extractLsb' 26 6).toNat ∈ reservedOpcodes
  · rw [decode_reserved hres]
    exact iff_of_false nofun fun h => opcode_of_inTable h.1 hres
  · exact exists_ok_iff (decode_reads_table hres)

/-! ### Words the decoder refuses -/

/-- A refused word fails with the error the decoder's answer stands for. -/
theorem runWord_refused {w : Word} {s : State} {e : DecodeError} (hs : s.status.err = false) (h : decode w = .error e) :
    runWord w s = .next (s.failed (decodeErr e).code) :=
  (runWord_error h).trans (command_error hs)

theorem decodeErr_arg {e : DecodeError} (h : e ≠ .reservedOpcode) : decodeErr e = .arg := by
  cases e with
  | reservedOpcode => exact absurd rfl h
  | _ => rfl

/-- Settles O5: with an opcode of the map, the decoder refuses the word for its operands. -/
theorem illegalOperandsRaiseArg : Obligations.IllegalOperandsRaiseArg := by
  intro w s hs hopc hw
  obtain ⟨e, he, hne⟩ := exists_error_of_not (decode_reads_table hopc) hw
  rw [runWord_refused hs he, decodeErr_arg hne]
  rfl

/-- Settles O3, by running the decoder. -/
theorem specWordsDecode : Obligations.SpecWordsDecode :=
  ⟨rfl, rfl, rfl, rfl, rfl, rfl, rfl, rfl, rfl, rfl, rfl, rfl, rfl, rfl, rfl, rfl⟩

end Sys2Proof.Encoding
end

section
/-! The slot check of a command, what a command leaves of each frame slot, and the commands with no effect (30_encoding R94,
R104 step 5, 40_config_frame R145). -/

namespace Sys2Proof.Effects

open Sys2Proof.Machine Sys2Proof.Laws Sys2Proof.Invariant

/-! ### The slot check -/

/-- A body raises `E_SLOT` where any slot of a list is not built. -/
def ChecksSlots (s : State) (l : List BfIx) (body : Except Err State) : Prop :=
  ∀ bf ∈ l, (s.slot bf).valid = false → body = .error .slot

section

variable {s : State}

theorem checksSlots_nil {body : Except Err State} : ChecksSlots s [] body := nofun

/-- A slot check, and then those of the rest of the body. -/
theorem checksSlots_withSlot {bf : BfIx} {l : List BfIx} {k : BitFrame → Except Err State}
    (h : ChecksSlots s l (k (s.slot bf))) : ChecksSlots s (bf :: l) (withSlot s bf k) := by
  intro bf' hmem hv'
  cases hv : (s.slot bf).valid with
  | false => exact withSlot_unbuilt hv
  | true =>
    rw [withSlot_built hv]
    obtain rfl | hmem := List.mem_cons.mp hmem
    · cases hv.symm.trans hv'
    · exact h bf' hmem hv'

end

theorem checks_removeBit (bf : BfIx) (flag : Bool) (t : Option Tag) : (Instr.removeBit bf flag t).touches.checks = [bf] := by
  cases flag <;> cases t <;> rfl

/-- Every command, BUILD excepted, checks the bit-frame slots it uses before all else. -/
theorem exec_checksSlots (i : Instr) (s : State) : ∃ body, exec i s = command s body ∧ ChecksSlots s i.touches.checks body := by
  cases i with
  | nop | setNbt | setDbt | setFlags | setDlc | setDlen | setId | randomize | frameEq | dlcToLen | lenToDlc | build =>
    obtain ⟨body, hbody, -⟩ := exec_runs _ s
    exact ⟨body, hbody, checksSlots_nil⟩
  | insertBitCopy | appendBf => exact ⟨_, rfl, checksSlots_withSlot <| checksSlots_withSlot checksSlots_nil⟩
  | removeBit bf flag t => exact ⟨_, rfl, checks_removeBit bf flag t ▸ checksSlots_withSlot checksSlots_nil⟩
  | _ => exact ⟨_, rfl, checksSlots_withSlot checksSlots_nil⟩

/-- Settles O10: the body of a command checks the slots it uses first. -/
theorem unbuiltSlotRaisesSlot : Obligations.UnbuiltSlotRaisesSlot := by
  intro i s bf hs hbf hv
  obtain ⟨body, hexec, hchecks⟩ := exec_checksSlots i s
  rw [hexec, hchecks bf hbf hv, command_error hs]
  rfl

/-! ### The fields of a frame slot -/

/-- What command `i` leaves of a frame slot `fr` that becomes `fr'`: the fields it does not own. -/
structure OwnFields (i : Instr) (fr fr' : Frame) : Prop where
  flags : (∀ fs, i ≠ .setFlags fs) → fr'.flags = fr.flags
  id    : (∀ fs, i ≠ .setId fs ∧ i ≠ .randomize fs) → fr'.id = fr.id
  data  : (∀ fs, i ≠ .randomize fs) → fr'.data = fr.data
  rand  : fr'.rand = fr.rand
  spare : fr'.spare = fr.spare

theorem ownFields_refl (i : Instr) (fr : Frame) : OwnFields i fr fr :=
  ⟨fun _ => rfl, fun _ => rfl, fun _ => rfl, rfl, rfl⟩

/-- RANDOMIZE draws the DLC, the identifier and the data, and no other field but the DLEN (40_config_frame R141). -/
theorem randomize_ownFields (fs : FsIx) (fr : Frame) (j k l : Nat) :
    OwnFields (.randomize fs) fr (((fr.drawDlc j).drawId k).drawData l) := by
  refine ⟨fun _ => ?_, fun h => absurd rfl (h fs).2, fun h => absurd rfl (h fs), ?_, ?_⟩
  all_goals
    unfold Frame.drawData Frame.drawId
    split <;> split <;> rfl

/-- A command keeps the fields of every frame slot it does not own, where its body does. -/
theorem command_ownFields {i : Instr} {s t : State} {body : Except Err State} (hcmd : command s body = .next t)
    (h : Yields body fun u => ∀ k, OwnFields i (s.frame k) (u.frame k)) (k : FsIx) : OwnFields i (s.frame k) (t.frame k) := by
  obtain ⟨-, rfl⟩ | ⟨-, hok⟩ | ⟨-, e, -, rfl⟩ := command_cases hcmd
  · exact ownFields_refl i _
  · exact h t hok k
  · exact ownFields_refl i _

theorem ownFields_setFrame {i : Instr} {s : State} {fs : FsIx} {fr : Frame} (h : OwnFields i (s.frame fs) fr) (k : FsIx) :
    OwnFields i (s.frame k) ((s.setFrame fs fr).frame k) := by
  obtain rfl | hk := eq_or_ne k fs
  · rwa [frame_setFrame_same]
  · rw [frame_setFrame_ne s fs k fr hk]
    exact ownFields_refl i _

theorem frame_removeBit (bf : BfIx) (flag : Bool) (t : Option Tag) : (Instr.removeBit bf flag t).touches.frame = none := by
  cases flag <;> cases t <;> rfl

/-- Every command keeps the fields of every frame slot that it does not own. -/
theorem exec_ownFields {i : Instr} {s t : State} (h : exec i s = .next t) (k : FsIx) :
    OwnFields i (s.frame k) (t.frame k) := by
  cases i with
  | setFlags fs =>
    refine command_ownFields h (yields_check fun _ => yields_ok <| ownFields_setFrame (s := s) (fs := fs) ?_) k
    exact ⟨fun h => absurd rfl (h fs), fun _ => rfl, fun _ => rfl, rfl, rfl⟩
  | setDlc fs =>
    refine command_ownFields h (yields_check fun _ => yields_ok <| ownFields_setFrame ?_) k
    exact ⟨fun _ => rfl, fun _ => rfl, fun _ => rfl, rfl, rfl⟩
  | setDlen fs =>
    refine command_ownFields h ?_ k
    dsimp only
    split
    · exact yields_error
    · exact yields_ok <| ownFields_setFrame ⟨fun _ => rfl, fun _ => rfl, fun _ => rfl, rfl, rfl⟩
  | setId fs =>
    refine command_ownFields h (yields_check fun _ => yields_check fun _ => yields_ok <| ownFields_setFrame ?_) k
    exact ⟨fun _ => rfl, fun h => absurd rfl (h fs).1, fun _ => rfl, rfl, rfl⟩
  | randomize fs =>
    refine command_ownFields (s := s) (body := .ok _) h (yields_ok <| ownFields_setFrame (s := s) (fs := fs) ?_) k
    exact randomize_ownFields fs _ _ _ _
  | removeBit bf flag t =>
    rw [(exec_leaves h).frames k (frame_removeBit bf flag t ▸ nofun)]
    exact ownFields_refl _ _
  | _ =>
    rw [(exec_leaves h).frames k nofun]
    exact ownFields_refl _ _

/-! ### The whole frame of a command -/

/-- Only SET_FLAGS sets warnings (40_config_frame R134). -/
theorem exec_warnings {i : Instr} {s t : State} (h : exec i s = .next t) (hi : ∀ fs, i ≠ .setFlags fs) :
    t.status.wRtrFd = s.status.wRtrFd ∧ t.status.wBrsCl = s.status.wBrsCl ∧ t.status.wEsiCl = s.status.wEsiCl := by
  obtain ⟨-, rfl⟩ | ⟨-, hcompletes⟩ | ⟨-, e, rfl⟩ := exec_cases h
  · exact ⟨rfl, rfl, rfl⟩
  · rw [hcompletes.status hi]
    exact ⟨rfl, rfl, rfl⟩
  · exact ⟨rfl, rfl, rfl⟩

/-- Only a dropped command sets `DROP` (60_exceptions R342). -/
theorem exec_drop {i : Instr} {s t : State} (h : exec i s = .next t) (hs : s.status.err = false) :
    t.status.drop = s.status.drop := by
  obtain ⟨herr, -⟩ | ⟨-, hcompletes⟩ | ⟨-, e, rfl⟩ := exec_cases h
  · cases hs.symm.trans herr
  · exact hcompletes.drop
  · rfl

/-- Settles O12: what every command leaves, of the state, of the status and of each frame slot. -/
theorem frameOfEveryCommand : Obligations.FrameOfEveryCommand := by
  intro i s t h
  obtain ⟨hparams, ⟨h0, h1, h2, h3⟩, ⟨hpending, hread⟩, hnbt, hdbt, hframes, hslots, hbuilt, hresult0, hresult1⟩ :=
    exec_leaves h
  have hfields := exec_ownFields h
  refine ⟨hparams, h0, h1, h2, h3, hpending, hread, hnbt, hdbt, hframes, hslots, hbuilt, hresult0, hresult1, fun hi => ?_,
    exec_drop h, fun hi fs => (hfields fs).id hi, fun hi fs => (hfields fs).data hi,
    fun fs => ⟨(hfields fs).rand, (hfields fs).spare⟩⟩
  obtain ⟨hrtr, hbrs, hesi⟩ := exec_warnings h hi
  exact ⟨hrtr, hbrs, hesi, fun fs => (hfields fs).flags hi⟩

end Sys2Proof.Effects
end

section
/-! Reserved opcodes, and NOP as the only command with no effect (30_encoding R94, 40_config_frame R145). -/

namespace Sys2Proof.Encoding

open Sys2Proof.Machine Sys2Proof.Laws Sys2Proof.Effects Sys2Proof.HostSide

/-! ### Opcodes of commands -/

/-- A command's opcode is one of the map. -/
theorem opcodeOf_not_reserved (i : Instr) : (opcodeOf i).toNat ∉ reservedOpcodes := fun h =>
  nomatch (decode_reserved h).symm.trans (decodeOfEncode i)

/-- The fields of a word of a row with no operand set but `FSEL` where the field is mandatory, so `Sof`. -/
def bareFields (r : OpRow) : C32 where
  opc := r.opc
  fsel := if r.opc ∈ fieldOpcodes then 1 else 0

/-- Every opcode of the map has a command, the one its row reads from the bare word. -/
theorem exists_opcodeOf {o : BitVec 6} (h : o.toNat ∉ reservedOpcodes) : ∃ i, opcodeOf i = o := by
  have hbare : ∀ r ∈ opRows, onlyUsed r.uses (bareFields r) = bareFields r ∧ FieldsLegal (bareFields r) := by
    unfold FieldsLegal
    decide
  obtain ⟨r, hr, rfl⟩ := exists_row h
  obtain ⟨hused, hlegal⟩ := hbare r hr
  obtain ⟨i, -, hi⟩ := exists_ok (opRows_read r hr (bareFields r) rfl hused) hlegal
  exact ⟨i, (opc_word i.c32).trans (congrArg C32.opc hi)⟩

/-! ### Commands with no effect -/

/-- A state in which every command but NOP does something: no bit-frame slot is built, NBT is not valid, ARG0 is all ones and
ARG1 is 0, every field of the frames is marked for a draw, and RESULT0 is no truth value. -/
def sensitive : State :=
  { State.reset with
    arg0 := BitVec.allOnes 32
    result0 := 2
    frames := Vector.replicate 2 { Frame.reset Config.Params.standard 0 with rand := 7 } }

theorem sensitive_err : sensitive.status.err = false := rfl

theorem sensitive_frame (fs : FsIx) : sensitive.frame fs = { Frame.reset Config.Params.standard 0 with rand := 7 } := by
  simp [State.frame, sensitive]

theorem sensitive_slot (bf : BfIx) : (sensitive.slot bf).valid = false := by
  simp [sensitive, State.reset, State.resetWith, State.slot, State.resetAt, BitFrame.reset]

/-- A command that fails has an effect. -/
theorem command_error_ne {s : State} {body : Except Err State} {e : Err} (hs : s.status.err = false) (h : body = .error e) :
    command s body ≠ .next s := by
  rw [h, command_error hs]
  intro heq
  have herr := congrArg (fun s : State => s.status.err) (Host.Outcome.next.inj heq)
  exact nomatch hs.symm.trans herr.symm

/-- So has a command that leaves another state. -/
theorem command_ok_ne {α : Type} {s t : State} (hs : s.status.err = false) (f : State → α) (h : f t ≠ f s) :
    command s (.ok t) ≠ .next s := by
  rw [command_ok hs]
  exact fun heq => h (congrArg f (Host.Outcome.next.inj heq))

/-- A command that uses a bit-frame slot, BUILD excepted, fails in that state. -/
theorem exec_sensitive_ne_of_checks {i : Instr} {bf : BfIx} (h : bf ∈ i.touches.checks) :
    exec i sensitive ≠ .next sensitive := by
  obtain ⟨body, hexec, hchecks⟩ := exec_checksSlots i sensitive
  rw [hexec]
  exact command_error_ne sensitive_err (hchecks bf h (sensitive_slot bf))

theorem exec_sensitive_ne {i : Instr} (h : i ≠ .nop) : exec i sensitive ≠ .next sensitive := by
  cases i with
  | nop => exact absurd rfl h
  | setNbt | setDbt => exact command_error_ne sensitive_err rfl
  | setFlags fs | setDlc fs | setId fs => exact command_error_ne sensitive_err rfl
  | setDlen fs => exact command_error_ne sensitive_err (by rw [sensitive_frame]; rfl)
  | randomize fs => exact command_ok_ne sensitive_err State.draws (by simp [sensitive_frame])
  | frameEq =>
    refine command_ok_ne sensitive_err State.result0 ?_
    show (if frameEqual (sensitive.frame 0) (sensitive.frame 1) then 1 else 0) ≠ (2 : Word)
    split <;> decide
  | dlcToLen flag => exact command_error_ne sensitive_err rfl
  | lenToDlc flag => cases flag <;> exact command_error_ne sensitive_err rfl
  | build bf fs => exact command_error_ne sensitive_err rfl
  | removeBit bf flag t =>
    exact exec_sensitive_ne_of_checks (bf := bf) (checks_removeBit bf flag t ▸ List.mem_singleton_self bf)
  | _ => exact exec_sensitive_ne_of_checks List.mem_cons_self

/-- The one word of the table with the opcode of NOP is the word 0. -/
theorem eq_zero_of_inTable {w : Word} (ho : w.extractLsb' 26 6 = 0) (hw : inTable w) : w = 0 := by
  have hnop : OpRow.plain 0x00 0 (fun _ => .nop) ∈ opRows := List.mem_cons_self
  have hdecode : decode w = .ok .nop := (decode_row (ho ▸ find_row hnop)).trans (if_pos ((inTable_iff hnop ho).mp hw).1)
  exact (encodeOfDecode w .nop hdecode).symm

/-- Settles O6: the opcodes of commands are those of rows, a reserved one is what the decoder names, every command but NOP
changes the state `sensitive`, and no other word with the opcode of NOP is in the table. -/
theorem reservedOpcodesAndNop : Obligations.ReservedOpcodesAndNop := by
  refine ⟨fun o => ⟨?_, ?_⟩, ?_, ?_, rfl, ?_⟩
  · rintro ho i rfl
    exact opcodeOf_not_reserved i ho
  · intro hno
    by_contra ho
    obtain ⟨i, hi⟩ := exists_opcodeOf ho
    exact hno i hi
  · exact fun w s hs hw => runWord_refused hs (decode_reserved hw)
  · intro i
    constructor
    · intro hall
      by_contra hne
      exact exec_sensitive_ne hne (hall sensitive sensitive_err)
    · rintro rfl s hs
      exact command_ok hs
  · intro w s hs ho hne
    exact illegalOperandsRaiseArg w s hs (by rw [ho]; decide) fun h => hne (eq_zero_of_inTable ho h.1)

end Sys2Proof.Encoding
end

section
/-! The outcome of a command's body in a state without a recorded error, and the DLC table (40_config_frame R135, R136, R143,
R144, R146). -/

namespace Sys2Proof.ConfigFrame

open Sys2Proof.Machine Sys2Proof.Laws Sys2Proof.Invariant

/-! ### Bodies with one check -/

/-- A body that fails with one error where `p` holds. -/
theorem command_check {s t : State} {p : Prop} [Decidable p] (e : Err) (hs : s.status.err = false) :
    command s (if p then .error e else .ok t) = .next (if p then s.failed e.code else t) := by
  split
  · exact command_error hs
  · exact command_ok hs

/-! ### The DLC table -/

/-- A data length that has a DLC is at most 64, and at most 8 in a Classical frame. -/
theorem le_of_lenToDlc {n : Nat} {fdf : Bool} {d : BitVec 4} (h : lenToDlc n fdf = some d) :
    n ≤ 64 ∧ (fdf = false → n ≤ 8) := by
  unfold lenToDlc at h
  split at h
  · next hn => exact ⟨by omega, fun _ => hn⟩
  · split at h
    · next hfdf =>
      subst hfdf
      split at h <;> cases h <;> decide
    · cases h

/-- Every DLC, in a Classical frame every one up to 8, is the DLC of its data length. -/
theorem lenToDlc_dlcToLen : ∀ (fdf : Bool) (d : BitVec 4), (fdf = false → d.toNat ≤ 8) →
    lenToDlc (dlcToLen d fdf).toNat fdf = some d := by
  decide

/-- A Classical frame's data length tells its DLC up to 8. -/
theorem toNat_le_of_lenToDlc {n : Nat} {fdf : Bool} {d : BitVec 4} (h : lenToDlc n fdf = some d) (hn : n ≤ 8) :
    d.toNat ≤ 8 := by
  unfold lenToDlc at h
  rw [if_pos hn] at h
  cases h
  rw [BitVec.toNat_ofNat]
  omega

/-- `LenToDlc` is the inverse of `DlcToLen` on its image; a Classical frame takes the DLC up to 8 (40_config_frame R136). -/
theorem lenToDlc_eq_some_iff {n : Nat} {fdf : Bool} {d : BitVec 4} :
    lenToDlc n fdf = some d ↔ (dlcToLen d fdf).toNat = n ∧ (fdf = false → d.toNat ≤ 8) := by
  constructor
  · intro h
    obtain ⟨hle, hclassical⟩ := le_of_lenToDlc h
    refine ⟨?_, fun hfdf => toNat_le_of_lenToDlc h (hclassical hfdf)⟩
    rw [← dlcToLen_of_lenToDlc h, BitVec.toNat_ofNat]
    omega
  · rintro ⟨rfl, hd⟩
    exact lenToDlc_dlcToLen fdf d hd

/-- A number that is the data length of no DLC has none. -/
theorem lenToDlc_eq_none {n : Nat} {fdf : Bool} (h : ∀ d : BitVec 4, n ≠ (dlcToLen d fdf).toNat) :
    lenToDlc n fdf = none :=
  Option.eq_none_iff_forall_ne_some.mpr fun d hd => h d (lenToDlc_eq_some_iff.mp hd).1.symm

/-- Settles O34: the table by running it, its inverse by `lenToDlc_eq_some_iff`. -/
theorem dlcTable : Obligations.DlcTable := by
  refine ⟨by decide, by decide, fun n fdf d => lenToDlc_eq_some_iff, fun d _ => ?_, by decide, rfl⟩
  rw [lenToDlc_dlcToLen true d nofun, Option.map_some]

/-- Settles O35: DLC_TO_LEN has one check, and LEN_TO_DLC fails exactly where `LenToDlc` is not defined. -/
theorem dlcConversionResults : Obligations.DlcConversionResults := by
  intro flag s hs
  refine ⟨(EncodedOpcode.dlcToLen flag).1, (EncodedOpcode.lenToDlc flag).1, ?_, fun d hd hlen => ?_, fun hlen => ?_⟩
  · rw [BitVec.setWidth_eq_extractLsb' (w := 4) (by decide)]
    exact command_check .dlc hs
  · simp only [exec, execLenToDlc, lenToDlc_eq_some_iff.mpr ⟨hlen.symm, hd⟩]
    exact command_ok hs
  · simp only [exec, execLenToDlc, lenToDlc_eq_none hlen]
    exact command_error hs

end Sys2Proof.ConfigFrame
end

section
/-! The commands on the frame slots (40_config_frame R133, R134, R137 to R142). -/

namespace Sys2Proof.ConfigFrame

open Sys2Proof.Machine Sys2Proof.Laws Sys2Proof.Invariant

/-! ### SET_FLAGS -/

/-- An operand above 31 has a bit above the five flags. -/
theorem extractLsb'_ne_zero {v : Word} (h : 32 ≤ v.toNat) : v.extractLsb' 5 27 ≠ 0 := by
  intro h0
  have hnat := congrArg BitVec.toNat h0
  simp only [BitVec.extractLsb'_toNat, BitVec.ofNat_eq_ofNat, BitVec.toNat_ofNat, Nat.shiftRight_eq_div_pow] at hnat
  have hlt := v.isLt
  omega

/-- SET_FLAGS's operand for five flags (30_encoding R102). -/
def flagsOperand (f : FrameFlags) : Word :=
  0#27 ++ BitVec.ofBool f.esi ++ BitVec.ofBool f.brs ++ BitVec.ofBool f.rtr ++ BitVec.ofBool f.ide ++ BitVec.ofBool f.fdf

/-- The operand for five flags has no bit above them, and its bits are the flags. -/
theorem flagsOperand_spec : ∀ fdf ide rtr brs esi : Bool,
    (flagsOperand ⟨fdf, ide, rtr, brs, esi⟩).extractLsb' 5 27 = 0 ∧
      FrameFlags.ofWord (flagsOperand ⟨fdf, ide, rtr, brs, esi⟩) = ⟨fdf, ide, rtr, brs, esi⟩ := by
  decide

theorem normalize_eq (fdf ide rtr brs esi : Bool) : FrameFlags.normalize ⟨fdf, ide, rtr, brs, esi⟩ =
    ⟨fdf, ide, if fdf then false else rtr, if fdf then brs else false, if fdf then esi else false⟩ := by
  cases fdf <;> simp [FrameFlags.normalize]

/-- Settles O29: the operand has a bit above the flags, or is the operand of five flags. -/
theorem setFlagsResult : Obligations.SetFlagsResult := by
  intro fs s hs
  refine ⟨(EncodedOpcode.setFlags fs).1, fun harg => ?_, fun fdf ide rtr brs esi harg => ?_⟩
  · simp only [exec, execSetFlags, if_pos (extractLsb'_ne_zero harg)]
    exact command_error hs
  · replace harg : s.arg0 = flagsOperand ⟨fdf, ide, rtr, brs, esi⟩ := harg
    obtain ⟨hhigh, hlow⟩ := flagsOperand_spec fdf ide rtr brs esi
    simp only [exec, execSetFlags, harg, hhigh, hlow, normalize_eq]
    exact command_ok hs

/-! ### SET_DLC, SET_DLEN, SET_ID -/

/-- Settles O30: SET_DLC has one check, and SET_DLEN fails exactly where `LenToDlc` is not defined. -/
theorem setDlcSetDlenResult : Obligations.SetDlcSetDlenResult := by
  intro fs s hs
  refine ⟨(EncodedOpcode.setDlc fs).1, (EncodedOpcode.setDlen fs).1, ?_, fun d hd hlen => ?_, fun hlen => ?_⟩
  · rw [BitVec.setWidth_eq_extractLsb' (w := 4) (by decide)]
    exact command_check .dlc hs
  · have hdlc := lenToDlc_eq_some_iff.mpr ⟨hlen.symm, hd⟩
    simp only [exec, execSetDlen, hdlc, dlcToLen_of_lenToDlc hdlc]
    exact command_ok hs
  · simp only [exec, execSetDlen, lenToDlc_eq_none hlen]
    exact command_error hs

/-- Settles O31: the two checks raise the same error. -/
theorem setIdResult : Obligations.SetIdResult := by
  intro fs s hs
  refine ⟨(EncodedOpcode.setId fs).1, ?_⟩
  rw [BitVec.setWidth_eq_extractLsb' (by decide)]
  simp only [exec, execSetId, ge_iff_le, ← ite_or]
  exact command_check .id hs

/-! ### RANDOMIZE -/

/-- The DLC RANDOMIZE leaves, drawn as draw `k` where it is marked (40_config_frame R141). -/
def drawnDlc (fr : Frame) (k : Nat) : BitVec 4 :=
  if fr.rand.getLsbD 0 then Config.draw 4 k else fr.dlc

/-- The identifier RANDOMIZE leaves. -/
def drawnId (fr : Frame) (k : Nat) : BitVec 29 :=
  if fr.rand.getLsbD 1 then Config.draw 29 k &&& idMask fr.flags.ide else fr.id

/-- The data bytes RANDOMIZE leaves. -/
def drawnData (fr : Frame) (k : Nat) : Vector Byte Config.windowBytes :=
  if fr.rand.getLsbD 2 then Vector.ofFn fun j => Config.draw 8 (k + j.val) else fr.data

/-- The three parts of RANDOMIZE write the three fields it can draw, and the DLEN of the DLC. -/
theorem drawData_drawId_drawDlc (fr : Frame) (j k l : Nat) : ((fr.drawDlc j).drawId k).drawData l =
    { fr with
      dlc := drawnDlc fr j, dlen := dlcToLen (drawnDlc fr j) fr.flags.fdf, id := drawnId fr k, data := drawnData fr l } := by
  unfold Frame.drawData Frame.drawId drawnId drawnData
  split <;> split <;> simp_all [Frame.drawDlc, drawnDlc]

theorem getElem_drawnData (fr : Frame) (k : Nat) (j : Fin 64) :
    (drawnData fr k)[j] = if fr.rand.getLsbD 2 then Config.draw 8 (k + j.val) else fr.data[j] := by
  unfold drawnData
  split
  · simp
  · rfl

/-- Settles O32: draw `k` is for the DLC, `k + 1` for the identifier and `k + 2 + j` for data byte `j`. -/
theorem randomizeResult : Obligations.RandomizeResult := by
  intro fs s hs
  refine ⟨(EncodedOpcode.randomize fs).1, drawnDlc (s.frame fs) s.draws, drawnId (s.frame fs) (s.draws + 1),
    drawnData (s.frame fs) (s.draws + 2), if (s.frame fs).rand = 0 then s.draws else s.draws + 66, s.draws, s.draws + 1,
    fun j => s.draws + 2 + j.val, ?_, rfl, rfl, getElem_drawnData _ _, le_rfl, Nat.lt_add_one _,
    fun j => by dsimp only; omega, fun j j' h => Fin.ext (Nat.add_left_cancel h), fun h => ?_, fun h => if_pos h⟩
  · rw [← drawData_drawId_drawDlc]
    exact command_ok hs
  · rw [if_neg h]
    exact ⟨by omega, fun j => by dsimp only; omega⟩

/-! ### FRAME_EQ -/

/-- The first `n` bytes of two data buffers are the same exactly where each byte below `n` is. -/
theorem take_toList_eq_iff {α : Type} {m : Nat} (v v' : Vector α m) (n : Nat) :
    v.toList.take n = v'.toList.take n ↔ ∀ k : Fin m, k.val < n → v[k] = v'[k] := by
  constructor
  · intro h k hk
    have hget := congrArg (·[k.val]?) h
    simpa [List.getElem?_take_of_lt hk] using hget
  · intro h
    refine List.ext_getElem (by simp) fun k hk _ => ?_
    rw [List.length_take, Vector.length_toList, Nat.lt_min] at hk
    simpa using h ⟨k, hk.2⟩ hk.1

/-- The model's comparison of frame slots is that of the rule. -/
theorem frameEqual_iff (a b : Frame) : frameEqual a b = true ↔
    a.id = b.id ∧ a.dlc = b.dlc ∧ a.flags = b.flags ∧ ∀ k : Fin 64, k.val < a.dlen.toNat → a.data[k] = b.data[k] := by
  simp only [frameEqual, Bool.and_eq_true, beq_iff_eq, take_toList_eq_iff, and_assoc]

/-- Settles O33: RESULT0 shows the comparison of the two slots, which `frameEqual_iff` reads. -/
theorem frameEqResult : Obligations.FrameEqResult := by
  refine ⟨EncodedOpcode.frameEq.1, fun s hs => ?_⟩
  intro a b same
  have hexec : exec .frameEq s = .next (s.setResult0 (if frameEqual a b then 1 else 0)) := command_ok hs
  refine ⟨fun h => ?_, fun h => ?_⟩
  · rw [hexec, if_pos ((frameEqual_iff a b).mpr h)]
    rfl
  · rw [hexec, if_neg (mt (frameEqual_iff a b).mp h)]
    rfl

end Sys2Proof.ConfigFrame
end

section
/-! SET_NBT and SET_DBT (40_config_frame R130 to R132). -/

namespace Sys2Proof.ConfigFrame

open Sys2Proof.Machine Sys2Proof.Laws Sys2Proof.Invariant

/-- The timing whose segments are the bytes of ARG0 and whose `brp` is the low byte of ARG1 (30_encoding R101). -/
def givenTiming (p a b j : BitVec 8) (r : Word) : BitTiming where
  prop := p
  ph1 := a
  ph2 := b
  sjw := j
  brp := r.setWidth 8
  valid := true

/-- The four bytes of a word put together from bytes. -/
theorem bytes_append (p a b j : BitVec 8) :
    (j ++ b ++ a ++ p : Word).extractLsb' 0 8 = p ∧ (j ++ b ++ a ++ p : Word).extractLsb' 8 8 = a ∧
      (j ++ b ++ a ++ p : Word).extractLsb' 16 8 = b ∧ (j ++ b ++ a ++ p : Word).extractLsb' 24 8 = j :=
  have hmid {n m : Nat} (x : BitVec n) (y : BitVec 8) (start : Nat) (h : 8 ≤ start) :
      (x ++ y).extractLsb' start m = x.extractLsb' (start - 8) m := BitVec.extractLsb'_append_eq_of_le h
  ⟨BitVec.extractLsb'_append_eq_right,
    (hmid _ _ 8 (by decide)).trans BitVec.extractLsb'_append_eq_right,
    ((hmid _ _ 16 (by decide)).trans (hmid _ _ 8 (by decide))).trans BitVec.extractLsb'_append_eq_right,
    ((hmid _ _ 24 (by decide)).trans (hmid _ _ 16 (by decide))).trans BitVec.extractLsb'_append_eq_left⟩

/-- `TimingCheck` on operands given byte by byte (40_config_frame R132). -/
theorem timingOf_append (p a b j : BitVec 8) (r : Word) : timingOf (j ++ b ++ a ++ p) r =
    if j.toNat > p.toNat + a.toNat + 1 ∨ j.toNat > b.toNat then .error .sjw
    else if r.toNat = 0 ∨ r.toNat > 255 then .error .brp
    else .ok (givenTiming p a b j r) := by
  obtain ⟨hp, ha, hb, hj⟩ := bytes_append p a b j
  rw [givenTiming, BitVec.setWidth_eq_extractLsb' (by decide)]
  simp only [timingOf, hp, ha, hb, hj]

/-- The timing `TimingCheck` admits is legal (10_state R29). -/
theorem givenTiming_legal {p a b j : BitVec 8} {r : Word}
    (hsjw : ¬(j.toNat > p.toNat + a.toNat + 1 ∨ j.toNat > b.toNat)) (hbrp : ¬(r.toNat = 0 ∨ r.toNat > 255)) :
    (givenTiming p a b j r).legal = true :=
  have hok : timingOf (j ++ b ++ a ++ p) r = .ok (givenTiming p a b j r) := by
    rw [timingOf_append, if_neg hsjw, if_neg hbrp]
  (timingOf_legal _ _ _ hok).2

/-- SET_NBT and SET_DBT: the two checks in order, and then the write `g` of the timing given. -/
theorem command_timing {s : State} {p a b j : BitVec 8} (g : BitTiming → State) (hs : s.status.err = false)
    (harg : s.arg0 = j ++ b ++ a ++ p) : command s ((timingOf s.arg0 s.arg1).map g) = .next (
      if j.toNat > p.toNat + a.toNat + 1 ∨ j.toNat > b.toNat then s.failed 0x03
      else if s.arg1.toNat = 0 ∨ s.arg1.toNat > 255 then s.failed 0x04
      else g (givenTiming p a b j s.arg1)) := by
  rw [harg, timingOf_append]
  split
  · exact command_error hs
  · split
    · exact command_error hs
    · exact command_ok hs

/-- Fields of 8 bits or more fit every timing. -/
theorem fits_of_le {w : Nat} (h : 8 ≤ w) (t : BitTiming) : t.fits w = true :=
  List.all_eq_true.mpr fun x _ => decide_eq_true (x.isLt.trans_le (Nat.pow_le_pow_right (by decide) h))

/-- Settles O28: the checks by `command_timing`, and what the register then holds by `stored_spec`. -/
theorem setTimingResult : Obligations.SetTimingResult := by
  refine ⟨EncodedOpcode.setNbt.1, EncodedOpcode.setDbt.1, fun s p a b j hs harg => ?_⟩
  intro r badSjw badBrp w
  obtain ⟨hvalid, hprop, hph1, hph2, hsjw, hbrp, hfits, hlegal⟩ :=
    stored_spec (w := w) (givenTiming p a b j s.arg1) s.draws
  refine ⟨s.storedTiming (givenTiming p a b j s.arg1), s.timingDraws (givenTiming p a b j s.arg1),
    command_timing _ hs harg, command_timing _ hs harg, fun hw => ?_, hvalid, hprop, hph1, hph2, hsjw, hbrp,
    fun hgood hgood' hw => (timing_wf_iff_of_valid hvalid).mpr ⟨hlegal hw (givenTiming_legal hgood hgood'), hfits⟩⟩
  have hfit : (givenTiming p a b j s.arg1).fits w = true :=
    hw.elim (fits_of_le · _) fun hall => List.all_eq_true.mpr fun x hx => decide_eq_true (hall x hx)
  exact ⟨stored_of_fits s.draws hfit, if_pos hfit⟩

end Sys2Proof.ConfigFrame
end

section
/-! After every command the DLEN of a frame slot is the length of its DLC, and four commands write it (40_config_frame
R138). -/

namespace Sys2Proof.ConfigFrame

open Sys2Proof.Machine Sys2Proof.Laws Sys2Proof.Invariant Sys2Proof.Effects Sys2Proof.HostSide

/-- Two frame slots agree in DLC, DLEN and `FDF`. -/
structure SameLength (fr fr' : Frame) : Prop where
  dlc  : fr'.dlc = fr.dlc
  dlen : fr'.dlen = fr.dlen
  fdf  : fr'.flags.fdf = fr.flags.fdf

/-- The DLEN of a frame slot is the length of its DLC in its format. -/
def HasLength (fr : Frame) : Prop :=
  fr.dlen = dlcToLen fr.dlc fr.flags.fdf

/-- The commands that write the DLC, the DLEN or `FDF` of frame slot `fs`. -/
def WritesLength (i : Instr) (fs : FsIx) : Prop :=
  i = .setDlc fs ∨ i = .setDlen fs ∨ i = .setFlags fs ∨ i = .randomize fs

/-- Each frame slot keeps its DLC, DLEN and format from `s` to `t`, or command `i` writes them together. -/
def LengthsFollow (i : Instr) (s t : State) : Prop :=
  ∀ k, SameLength (s.frame k) (t.frame k) ∨ (WritesLength i k ∧ HasLength (t.frame k))

theorem lengthsFollow_of_frame {i : Instr} {s t : State} (h : ∀ k, t.frame k = s.frame k) : LengthsFollow i s t :=
  fun k => .inl ⟨by rw [h k], by rw [h k], by rw [h k]⟩

theorem lengthsFollow_setFrame {i : Instr} {s : State} {fs : FsIx} {fr : Frame}
    (h : SameLength (s.frame fs) fr ∨ (WritesLength i fs ∧ HasLength fr)) : LengthsFollow i s (s.setFrame fs fr) := by
  intro k
  obtain rfl | hk := eq_or_ne k fs
  · rwa [frame_setFrame_same]
  · rw [frame_setFrame_ne s fs k fr hk]
    exact .inl ⟨rfl, rfl, rfl⟩

theorem command_lengthsFollow {i : Instr} {s t : State} {body : Except Err State} (hcmd : command s body = .next t)
    (h : Yields body (LengthsFollow i s)) : LengthsFollow i s t := by
  obtain ⟨-, rfl⟩ | ⟨-, hok⟩ | ⟨-, e, -, rfl⟩ := command_cases hcmd
  · exact lengthsFollow_of_frame fun _ => rfl
  · exact h t hok
  · exact lengthsFollow_of_frame fun _ => rfl

/-- What every command does to the DLC, the DLEN and the format of the frame slots. -/
theorem exec_lengthsFollow {i : Instr} {s t : State} (h : exec i s = .next t) : LengthsFollow i s t := by
  cases i with
  | setFlags fs =>
    refine command_lengthsFollow h <| yields_check fun _ => yields_ok <| lengthsFollow_setFrame (s := s) (fs := fs) ?_
    exact .inr ⟨.inr (.inr (.inl rfl)), rfl⟩
  | setDlc fs =>
    refine command_lengthsFollow h <| yields_check fun _ => yields_ok <| lengthsFollow_setFrame ?_
    exact .inr ⟨.inl rfl, rfl⟩
  | setDlen fs =>
    refine command_lengthsFollow h ?_
    dsimp only
    split
    · exact yields_error
    · next hdlc => exact yields_ok <| lengthsFollow_setFrame <| .inr ⟨.inr (.inl rfl), dlcToLen_of_lenToDlc hdlc⟩
  | setId fs =>
    refine command_lengthsFollow h <| yields_check fun _ => yields_check fun _ => yields_ok <| lengthsFollow_setFrame ?_
    exact .inl ⟨rfl, rfl, rfl⟩
  | randomize fs =>
    refine command_lengthsFollow (s := s) (body := .ok _) h (yields_ok <| lengthsFollow_setFrame (s := s) (fs := fs) ?_)
    rw [drawData_drawId_drawDlc]
    exact .inr ⟨.inr (.inr (.inr rfl)), rfl⟩
  | removeBit bf flag t => exact lengthsFollow_of_frame fun k => (exec_leaves h).frames k (frame_removeBit bf flag t ▸ nofun)
  | _ => exact lengthsFollow_of_frame fun k => (exec_leaves h).frames k nofun

/-- A word written to CMD runs the command it decodes to, or changes no frame slot. -/
theorem runWord_exec_or_frame {w : Word} {s t : State} (h : runWord w s = .next t) :
    (∃ i, decode w = .ok i ∧ exec i s = .next t) ∨ ∀ k, t.frame k = s.frame k := by
  cases hw : decode w with
  | error e =>
    rw [runWord_error hw] at h
    obtain ⟨-, rfl⟩ | ⟨-, ⟨⟩⟩ | ⟨-, e', -, rfl⟩ := command_cases h <;> exact .inr fun _ => rfl
  | ok i =>
    cases hb : slotsExist s.params w i with
    | true => exact .inl ⟨i, rfl, runWord_exec hw hb ▸ h⟩
    | false =>
      rw [runWord_absent hw hb] at h
      split at h
      · cases h
        exact .inr fun _ => rfl
      · cases h

/-- Settles O25: a word that changes a frame slot runs a command, and `exec_lengthsFollow` says what a command does to it. -/
theorem dlenFollowsDlc : Obligations.DlenFollowsDlc := by
  intro w s t h
  obtain ⟨i, hw, hexec⟩ | hframe := runWord_exec_or_frame h
  · have hfollow := exec_lengthsFollow hexec
    refine ⟨fun hs fs => ?_, fun fs hne => ?_⟩
    · obtain ⟨hdlc, hdlen, hfdf⟩ | ⟨-, hlen⟩ := hfollow fs
      · rw [hdlc, hdlen, hfdf]
        exact hs fs
      · exact hlen
    · obtain ⟨hdlc, hdlen, hfdf⟩ | ⟨hwrites, -⟩ := hfollow fs
      · simp [hdlc, hdlen, hfdf] at hne
      · rw [hw]
        simpa only [WritesLength, Except.ok.injEq] using hwrites
  · exact ⟨fun hs fs => hframe fs ▸ hs fs, fun fs hne => by simp [hframe fs] at hne⟩

end Sys2Proof.ConfigFrame
end

section
/-! A command on the bit at index ARG0 of a built slot: how it runs, and the error where the slot has no such bit
(41_bit_timing R180, 43_queries R261, 44_structural R292, 45_protocol_faults R315). -/

namespace Sys2Proof.TimeQuanta

open Sys2Proof.Machine Sys2Proof.Laws

/-- A command on the bit at index ARG0 of a built slot is what the command does with that bit. -/
theorem command_atBit {s : State} {bf : BfIx} {b : BitRec} {k : BitFrame → BitRec → Except Err State} (hs : s.ready bf)
    (hb : (s.slot bf).bits[s.arg0.toNat]? = some b) :
    command s (withSlot s bf fun f => withBit f s.arg0 (k f)) = command s (k (s.slot bf) b) := by
  rw [withSlot_built hs.2, withBit_some hb]

theorem command_atBit_ok {s t : State} {bf : BfIx} {b : BitRec} {k : BitFrame → BitRec → Except Err State} (hs : s.ready bf)
    (hb : (s.slot bf).bits[s.arg0.toNat]? = some b) (hk : k (s.slot bf) b = .ok t) :
    command s (withSlot s bf fun f => withBit f s.arg0 (k f)) = .next t := by
  rw [command_atBit hs hb, hk, command_ok hs.1]

theorem command_atBit_error {s : State} {bf : BfIx} {b : BitRec} {k : BitFrame → BitRec → Except Err State} (e : Err)
    (hs : s.ready bf) (hb : (s.slot bf).bits[s.arg0.toNat]? = some b) (hk : k (s.slot bf) b = .error e) :
    command s (withSlot s bf fun f => withBit f s.arg0 (k f)) = .next (s.failed e.code) := by
  rw [command_atBit hs hb, hk, command_error hs.1]
  rfl

/-- Every command of which ARG0 names a bit runs its slot check, then its bit check. -/
theorem exec_atBit {i : Instr} {bf : BfIx} (s : State) (h : i.touches.bitAt = some bf) :
    ∃ k : BitFrame → BitRec → Except Err State,
      exec i s = command s (withSlot s bf fun f => withBit f s.arg0 (k f)) := by
  cases i with
  | removeBit bf' flag t =>
    cases flag with
    | true => cases h
    | false =>
      cases t with
      | some _ => cases h
      | none =>
        cases h
        exact ⟨_, rfl⟩
  | readBit | readTq | readCycle | bitCycles | getBitIndex | looseArb | flipBit | flipComp | lengthen | shorten | forceTq
  | forceCycle | firstTq | lastTq | prevPhase | resync =>
    cases h
    exact ⟨_, rfl⟩
  | _ => cases h

/-- Settles O11: the bit check of `exec_atBit` raises the error. -/
theorem bitBeyondEndRaisesRange : Obligations.BitBeyondEndRaisesRange := by
  intro i s bf hi hs hlen
  obtain ⟨k, hexec⟩ := exec_atBit s hi
  rw [hexec, withSlot_built hs.2, withBit_out hlen, command_error hs.1]
  rfl

end Sys2Proof.TimeQuanta
end

section
/-! Which timing a phase of a bit has, and what a fresh bit is made of (41_bit_timing R170 to R172, 20_memory R67). -/

namespace Sys2Proof.TimeQuanta

open Sys2Proof.Machine Sys2Proof.Laws

/-! ### The timing of a phase -/

/-- The domain of a phase is that of the data phase exactly in a frame with a bit-rate shift (41_bit_timing R170). -/
theorem dom_eq_data_iff (t : Tag) (p : Phase) (fdf brs : Bool) :
    dom t p fdf brs = .data ↔ fdf = true ∧ brs = true ∧ inDataPhase t p := by
  unfold dom
  split
  · next hshift =>
    obtain ⟨hfdf, hbrs⟩ : fdf = true ∧ brs = true := by simpa using hshift
    cases t <;> simp [inDataPhase, hfdf, hbrs]
  · next hshift => simpa using fun hfdf hbrs => absurd (by simp [hfdf, hbrs]) hshift

/-- The timing of a phase is the one the model takes for it. -/
theorem isTimingOf_iff {sn : Snap} {t : Tag} {p : Phase} {tm : BitTiming} : isTimingOf sn t p tm ↔ tm = sn.timing t p := by
  rw [isTimingOf, ← dom_eq_data_iff, Snap.timing]
  cases dom t p sn.flags.fdf sn.flags.brs <;> simp

/-! ### Fresh bits -/

/-- Every quantum of a fresh bit is a fresh one, of its phase's own timing (41_bit_timing R171). -/
theorem eq_newTq_of_mem_newBit {sn : Snap} {t : Tag} {v : Level} {q : Tq} (h : q ∈ (newBit sn t v).tqs) :
    q = newTq q.phase (sn.timing t q.phase).brp.toNat := by
  simp only [newBit, newPhase, List.mem_append, List.mem_replicate] at h
  obtain ((⟨-, rfl⟩ | ⟨-, rfl⟩) | ⟨-, rfl⟩) | ⟨-, rfl⟩ := h <;> rfl

/-- The phases of a fresh bit stand in time order, whatever its snapshot (41_bit_timing R171). -/
theorem newBit_ordered (sn : Snap) (t : Tag) (v : Level) : phasesOrdered (newBit sn t v).tqs := by
  simp [phasesOrdered, newBit, newPhase, List.pairwise_append, List.pairwise_replicate, Phase.code, or_imp, forall_and]

/-- The length of a fresh bit is that of its four phases (41_bit_timing R172). -/
theorem newBit_cycles (sn : Snap) (t : Tag) (v : Level) : (newBit sn t v).cycles =
    (sn.timing t .sync).brp.toNat + (sn.timing t .prop).prop.toNat * (sn.timing t .prop).brp.toNat
      + (sn.timing t .ph1).ph1.toNat * (sn.timing t .ph1).brp.toNat
      + (sn.timing t .ph2).ph2.toNat * (sn.timing t .ph2).brp.toNat := by
  simp [BitRec.cycles, newBit, newPhase, BitTiming.quanta, Nat.add_assoc]

/-- Timing fields of 8 bits give a phase at most 255 quanta. -/
theorem quanta_le (tm : BitTiming) (p : Phase) : tm.quanta p ≤ 255 := by
  have hfield : ∀ x : BitVec 8, x.toNat ≤ 255 := fun x => Nat.le_of_lt_succ x.isLt
  cases p with
  | sync => exact (by decide : 1 ≤ 255)
  | prop => exact hfield tm.prop
  | ph1 => exact hfield tm.ph1
  | ph2 => exact hfield tm.ph2

/-- A block with the room of the values of 00_scope R8 has room for every fresh bit (20_memory R67). -/
theorem newBit_fits {c : Config.Params} (h : c.Roomy) (sn : Snap) (t : Tag) (v : Level) : (newBit sn t v).fits c = true := by
  obtain ⟨-, hquanta, hcycles⟩ := h
  simp only [BitRec.fits, Bool.and_eq_true, List.all_eq_true, decide_eq_true_eq]
  refine ⟨fun p _ => ?_, fun q hq => ?_⟩
  · rw [newBit_count]
    exact (quanta_le _ p).trans hquanta
  · rw [eq_newTq_of_mem_newBit hq, newTq_len]
    exact (Nat.le_of_lt_succ (BitVec.isLt _)).trans hcycles

/-- Settles O36: the timing of each phase is the one the model takes, and `NewBit` follows it. -/
theorem newBitFollowsTiming : Obligations.NewBitFollowsTiming := by
  intro sn t v
  refine ⟨sn.timing t, fun p => isTimingOf_iff.mpr rfl, rfl, rfl, rfl, rfl, newBit_ordered sn t v, newBit_count sn t v .sync,
    newBit_count sn t v .prop, newBit_count sn t v .ph1, newBit_count sn t v .ph2, fun q hq => ?_, newBit_cycles sn t v,
    fun c hc => ?_⟩
  · have hfresh := eq_newTq_of_mem_newBit hq
    exact ⟨congrArg Tq.len hfresh, congrArg Tq.tqf hfresh, congrArg Tq.cyc hfresh⟩
  · simpa [fits_eq] using newBit_fits hc sn t v

end Sys2Proof.TimeQuanta
end

section
/-! Indices in a list, and the quanta of a phase in a bit whose phases stand in time order (10_state R37, 41_bit_timing
R173). -/

namespace Sys2Proof.TimeQuanta

open Sys2Proof.Machine Sys2Proof.Laws Sys2Proof.Invariant

/-! ### The index found is the only one -/

theorem firstIdx_eq_some {α : Type} {p : α → Bool} {l : List α} {k : Nat} {x : α} (hx : l[k]? = some x) (hp : p x = true)
    (hlt : ∀ j < k, ∀ y, l[j]? = some y → p y = false) : firstIdx p l = some k := by
  cases h : firstIdx p l with
  | none =>
    have hnone := List.countP_eq_zero.mp (firstIdx_none.mp h) x (List.mem_of_getElem? hx)
    exact absurd hp hnone
  | some k' =>
    obtain ⟨⟨x', hx', hp'⟩, hlt'⟩ := firstIdx_some h
    obtain hk | rfl | hk := Nat.lt_trichotomy k k'
    · cases hp.symm.trans (hlt' k hk x hx)
    · rfl
    · cases hp'.symm.trans (hlt k' hk x' hx')

theorem lastIdx_eq_some {α : Type} {p : α → Bool} {l : List α} {k : Nat} {x : α} (hx : l[k]? = some x) (hp : p x = true)
    (hgt : ∀ j > k, ∀ y, l[j]? = some y → p y = false) : lastIdx p l = some k := by
  cases h : lastIdx p l with
  | none =>
    have hnone := List.countP_eq_zero.mp (lastIdx_none.mp h) x (List.mem_of_getElem? hx)
    exact absurd hp hnone
  | some k' =>
    obtain ⟨⟨x', hx', hp'⟩, hgt'⟩ := lastIdx_some h
    obtain hk | rfl | hk := Nat.lt_trichotomy k k'
    · cases hp'.symm.trans (hgt k' hk x' hx')
    · rfl
    · cases hp.symm.trans (hgt' k hk x hx)

/-- `first(b, p)` is the first quantum of the phase (41_bit_timing R173). -/
theorem first_of_isFirstOf {b : BitRec} {p : Phase} {k : Nat} (h : isFirstOf p b.tqs k) : b.first p = some k := by
  obtain ⟨⟨q, hq, hp⟩, hlt⟩ := h
  exact firstIdx_eq_some hq (beq_iff_eq.mpr hp) fun j hj y hy => beq_eq_false_iff_ne.mpr (hlt j hj y hy)

/-- `last(b, p)` is the last quantum of the phase (41_bit_timing R173). -/
theorem last_of_isLastOf {b : BitRec} {p : Phase} {k : Nat} (h : isLastOf p b.tqs k) : b.last p = some k := by
  obtain ⟨⟨q, hq, hp⟩, hgt⟩ := h
  exact lastIdx_eq_some hq (beq_iff_eq.mpr hp) fun j hj y hy => beq_eq_false_iff_ne.mpr (hgt j hj y hy)

/-! ### The run of a phase -/

/-- Quanta before, of and after phase `p`, put together to a list of quanta. -/
structure PhaseRun (p : Phase) (tqs A M B : List Tq) : Prop where
  eq     : tqs = A ++ M ++ B
  before : ∀ q ∈ A, q.phase.code.toNat < p.code.toNat
  within : ∀ q ∈ M, q.phase = p
  after  : ∀ q ∈ B, p.code.toNat < q.phase.code.toNat

/-- A phase is known by its place in time order (30_encoding R96). -/
theorem code_injective {p p' : Phase} (h : p.code.toNat = p'.code.toNat) : p = p' := by
  rw [← Encoding.phase_ofCode_code p, BitVec.eq_of_toNat_eq h, Encoding.phase_ofCode_code]

/-- In a list in phase order, the quanta of a phase stand in one run (10_state R37). -/
theorem exists_phaseRun (p : Phase) {tqs : List Tq} (h : phasesOrdered tqs) : ∃ A M B, PhaseRun p tqs A M B := by
  induction tqs with
  | nil => exact ⟨[], [], [], rfl, by simp, by simp, by simp⟩
  | cons x xs ih =>
    obtain ⟨hx, hxs⟩ : (∀ q ∈ xs, x.phase.code.toNat ≤ q.phase.code.toNat) ∧ phasesOrdered xs := by
      simpa [phasesOrdered] using h
    obtain ⟨A, M, B, rfl, hA, hM, hB⟩ := ih hxs
    obtain hlt | heq | hgt := Nat.lt_trichotomy x.phase.code.toNat p.code.toNat
    · exact ⟨x :: A, M, B, rfl, List.forall_mem_cons.mpr ⟨hlt, hA⟩, hM, hB⟩
    · obtain rfl : A = [] := List.eq_nil_iff_forall_not_mem.mpr fun q hq => by
        have := hx q (by simp [hq])
        have := hA q hq
        omega
      exact ⟨[], x :: M, B, rfl, by simp, List.forall_mem_cons.mpr ⟨code_injective heq, hM⟩, hB⟩
    · refine ⟨[], [], x :: (A ++ M ++ B), rfl, by simp, by simp, List.forall_mem_cons.mpr ⟨hgt, fun q hq => ?_⟩⟩
      exact hgt.trans_le (hx q hq)

section

variable {p : Phase} {tqs A M B : List Tq}

theorem PhaseRun.ne_before (h : PhaseRun p tqs A M B) : ∀ q ∈ A, (q.phase == p) = false := fun q hq =>
  beq_eq_false_iff_ne.mpr fun hp => absurd (h.before q hq) (by simp [hp])

theorem PhaseRun.ne_after (h : PhaseRun p tqs A M B) : ∀ q ∈ B, (q.phase == p) = false := fun q hq =>
  beq_eq_false_iff_ne.mpr fun hp => absurd (h.after q hq) (by simp [hp])

/-- A phase has as many quanta as its run. -/
theorem PhaseRun.countP_eq (h : PhaseRun p tqs A M B) : (tqs.countP fun q => q.phase == p) = M.length := by
  have hA : (A.countP fun q => q.phase == p) = 0 := List.countP_eq_zero.mpr fun q hq => by simp [h.ne_before q hq]
  have hM : (M.countP fun q => q.phase == p) = M.length := List.countP_eq_length.mpr fun q hq => by simp [h.within q hq]
  have hB : (B.countP fun q => q.phase == p) = 0 := List.countP_eq_zero.mpr fun q hq => by simp [h.ne_after q hq]
  rw [h.eq, List.countP_append, List.countP_append, hA, hM, hB, Nat.zero_add, Nat.add_zero]

/-- The last quantum of a phase is the last of its run. -/
theorem PhaseRun.lastIdx_eq {q : Tq} (h : PhaseRun p tqs A (M ++ [q]) B) :
    lastIdx (fun q => q.phase == p) tqs = some (A.length + M.length) := by
  have hq : tqs[A.length + M.length]? = some q := by simp [h.eq]
  refine lastIdx_eq_some hq (by simp [h.within q]) fun j hj y hy => h.ne_after y ?_
  rw [h.eq, List.getElem?_append_right (by simp; omega)] at hy
  exact List.mem_of_getElem? hy

/-- Taking the last quantum of a phase away takes it from the end of its run. -/
theorem PhaseRun.dropLastOf_eq {q : Tq} (h : PhaseRun p tqs A (M ++ [q]) B) : dropLastOf p tqs = A ++ M ++ B := by
  rw [dropLastOf, h.lastIdx_eq, h.eq]
  simp [List.eraseIdx_append]

/-- Taking the last `n` quanta of a phase away, one at a time, leaves the first ones of its run (41_bit_timing R181). -/
theorem PhaseRun.dropLastsOf_eq (h : PhaseRun p tqs A M B) {n : Nat} (hn : n ≤ M.length) :
    dropLastsOf p n tqs = A ++ M.take (M.length - n) ++ B := by
  induction n generalizing tqs M with
  | zero => simp [dropLastsOf, h.eq]
  | succ n ih =>
    obtain rfl | ⟨M, q, rfl⟩ := List.eq_nil_or_concat' M
    · exact absurd hn (Nat.not_succ_le_zero n)
    rw [List.length_append, List.length_singleton] at hn
    have hrun : PhaseRun p (A ++ M ++ B) A M B :=
      ⟨rfl, h.before, fun q hq => h.within q (List.mem_append_left _ hq), h.after⟩
    rw [dropLastsOf, h.dropLastOf_eq, ih hrun (by omega), List.length_append, List.length_singleton, Nat.add_sub_add_right,
      List.take_append_of_le_length (by omega)]

/-- A new quantum of a phase goes to the end of its run (41_bit_timing R173). -/
theorem PhaseRun.insertPoint_eq {b : BitRec} (h : PhaseRun p b.tqs A M B) : b.insertPoint p = A.length + M.length := by
  obtain rfl | ⟨M, q, rfl⟩ := List.eq_nil_or_concat' M
  · have hlast : b.last p = none := last_none.mpr h.countP_eq
    have hA : (A.countP fun q => phaseBefore q.phase p) = A.length :=
      List.countP_eq_length.mpr fun q hq => decide_eq_true (h.before q hq)
    have hB : (B.countP fun q => phaseBefore q.phase p) = 0 :=
      List.countP_eq_zero.mpr fun q hq => by simpa [phaseBefore] using (h.after q hq).le
    simp [BitRec.insertPoint, hlast, h.eq, hA, hB]
  · have hlast : b.last p = some (A.length + M.length) := h.lastIdx_eq
    rw [BitRec.insertPoint, hlast]
    simp [Nat.add_assoc]

/-- Quanta added to a phase stand at the end of its run (41_bit_timing R180). -/
theorem PhaseRun.addTqs_eq {b : BitRec} (h : PhaseRun p b.tqs A M B) (n len : Nat) :
    b.addTqs p n len = { b with tqs := A ++ (M ++ List.replicate n (newTq p len)) ++ B } := by
  rw [BitRec.addTqs, h.insertPoint_eq, h.eq, ← List.length_append]
  simp only [List.take_left, List.drop_left, ← List.append_assoc]

end

end Sys2Proof.TimeQuanta
end

section
/-! LENGTHEN, SHORTEN and RESYNC (41_bit_timing R180, R181, R188). -/

namespace Sys2Proof.TimeQuanta

open Sys2Proof.Machine Sys2Proof.Laws

/-! ### LENGTHEN and SHORTEN -/

theorem lengthenBit_error {c : Config.Params} {sn : Snap} {b : BitRec} {p : Phase} {n : Nat}
    (h : c.maxTqPerPhase < b.count p + n ∨ (n ≠ 0 ∧ c.maxTqCycles < (sn.timing b.tag p).brp.toNat)) :
    lengthenBit c sn b p n = .error .capacity :=
  if_pos h

/-- LENGTHEN of a bit within the bounds: the new quanta stand at the end of the run of their phase (41_bit_timing R180). -/
theorem lengthenBit_ok {c : Config.Params} {sn : Snap} {b : BitRec} {p : Phase} {n : Nat} {A M B : List Tq}
    (hrun : PhaseRun p b.tqs A M B) (hn : b.count p + n ≤ c.maxTqPerPhase)
    (hlen : n = 0 ∨ (sn.timing b.tag p).brp.toNat ≤ c.maxTqCycles) : lengthenBit c sn b p n =
      .ok { b with tqs := A ++ (M ++ List.replicate n (newTq p (sn.timing b.tag p).brp.toNat)) ++ B } := by
  rw [← hrun.addTqs_eq]
  exact if_neg (by omega)

theorem shortenBit_error {b : BitRec} {p : Phase} {n : Nat} (h : b.count p < n) : shortenBit b p n = .error .shorten :=
  if_pos h

/-- SHORTEN of a bit by quanta it has: they are gone from the end of the run of their phase (41_bit_timing R181). -/
theorem shortenBit_ok {b : BitRec} {p : Phase} {n : Nat} {A M B : List Tq} (hrun : PhaseRun p b.tqs A M B)
    (hn : n ≤ b.count p) : shortenBit b p n = .ok { b with tqs := A ++ M.take (M.length - n) ++ B } := by
  rw [← hrun.dropLastsOf_eq (hn.trans_eq hrun.countP_eq)]
  exact if_neg (by omega)

/-- Settles O37: the run of the phase in the bit, which LENGTHEN and SHORTEN change at its end. -/
theorem lengthenShortenResults : Obligations.LengthenShortenResults := by
  intro bf p s hs
  refine ⟨(EncodedOpcode.lengthen bf p).1, (EncodedOpcode.shorten bf p).1,
    fun hlen => ⟨bitBeyondEndRaisesRange _ s bf rfl hs hlen, bitBeyondEndRaisesRange _ s bf rfl hs hlen⟩,
    fun b tm hb htm hordered => ?_⟩
  obtain rfl := isTimingOf_iff.mp htm
  obtain ⟨A, M, B, hrun⟩ := exists_phaseRun p hordered
  refine ⟨fun hcap => command_atBit_error .capacity hs hb ?_,
    fun hshort => command_atBit_error .shorten hs hb ?_, A, M, B, hrun.eq,
    hrun.before, hrun.within, hrun.after, fun hok => command_atBit_ok hs hb ?_, fun hok => command_atBit_ok hs hb ?_⟩
  · exact congrArg (Except.map _) (lengthenBit_error hcap)
  · exact congrArg (Except.map _) (shortenBit_error hshort)
  · exact congrArg (Except.map _) (lengthenBit_ok hrun hok.1 hok.2)
  · exact congrArg (Except.map _) (shortenBit_ok hrun hok)

/-! ### RESYNC -/

/-- Putting back the bit a slot has changes nothing. -/
theorem setBit_self {s : State} {bf : BfIx} {i : Word} {b : BitRec} (hb : (s.slot bf).bits[i.toNat]? = some b) :
    s.setBit bf i b = s := by
  obtain ⟨hlt, rfl⟩ := List.getElem?_eq_some_iff.mp hb
  rw [State.setBit, List.set_getElem_self, setBits_self]

/-- Without a phase error RESYNC leaves the bit (41_bit_timing R188). -/
theorem resyncBit_zero (c : Config.Params) (sn : Snap) (b : BitRec) : resyncBit c sn b 0 = .ok b ∧ resyncBy sn b 0 = 0 :=
  ⟨rfl, rfl⟩

/-- A late edge lengthens Ph1 (41_bit_timing R188). -/
theorem resyncBit_late (c : Config.Params) (sn : Snap) (b : BitRec) {e : Int} (h : 0 < e) :
    resyncBit c sn b e = lengthenBit c sn b .ph1 (resyncBy sn b e) ∧
      resyncBy sn b e = min e.natAbs (sn.timing b.tag .ph1).sjw.toNat := by
  have hsize : e.toNat = e.natAbs := by omega
  exact ⟨if_pos h, hsize ▸ if_pos h⟩

/-- An early edge shortens Ph2 (41_bit_timing R188). -/
theorem resyncBit_early (c : Config.Params) (sn : Snap) (b : BitRec) {e : Int} (h : e < 0) :
    resyncBit c sn b e = shortenBit b .ph2 (resyncBy sn b e) ∧
      resyncBy sn b e = min e.natAbs (sn.timing b.tag .ph2).sjw.toNat := by
  have hsize : (-e).toNat = e.natAbs := by omega
  have hlate : ¬e > 0 := by omega
  exact ⟨(if_neg hlate).trans (if_pos h), hsize ▸ (if_neg hlate).trans (if_pos h)⟩

/-- Two commands that edit a bit in the same way, the one with another ARG1 and the other with a RESULT0, end alike. -/
theorem command_edit_alike {s : State} (hs : s.status.err = false) (bf : BfIx) (x : Except Err BitRec) (v1 v : Word) :
    ∃ t, command { s with arg1 := v1 } (x.map fun b => ({ s with arg1 := v1 } : State).setBit bf s.arg0 b) = .next t ∧
      command s (x.map fun b => (s.setBit bf s.arg0 b).setResult0 v) =
        .next (if t.status.err then s.failed t.status.ecode else { t with arg1 := s.arg1, result0 := v }) := by
  cases x with
  | error e => exact ⟨_, command_error hs, command_error hs⟩
  | ok b =>
    exact ⟨_, command_ok hs, (command_ok hs).trans (congrArg Host.Outcome.next (if_neg (Bool.eq_false_iff.mp hs)).symm)⟩

/-- A size bounded by a timing field fits an argument register. -/
theorem toNat_ofNat_min (n : Nat) (x : BitVec 8) : (BitVec.ofNat 32 (min n x.toNat)).toNat = min n x.toNat := by
  have hx := x.isLt
  rw [BitVec.toNat_ofNat, Nat.mod_eq_of_lt (by omega)]

theorem exec_lengthen_arg1 {s : State} {bf : BfIx} {b : BitRec} {v : Word} {n : Nat} (p : Phase) (hs : s.ready bf)
    (hb : (s.slot bf).bits[s.arg0.toNat]? = some b) (hn : v.toNat = n) : exec (.lengthen bf p) { s with arg1 := v } =
      command { s with arg1 := v } ((lengthenBit s.params (s.slot bf).snap b p n).map fun b' =>
        ({ s with arg1 := v } : State).setBit bf s.arg0 b') :=
  hn ▸ command_atBit (s := { s with arg1 := v }) hs hb

theorem exec_shorten_arg1 {s : State} {bf : BfIx} {b : BitRec} {v : Word} {n : Nat} (p : Phase) (hs : s.ready bf)
    (hb : (s.slot bf).bits[s.arg0.toNat]? = some b) (hn : v.toNat = n) : exec (.shorten bf p) { s with arg1 := v } =
      command { s with arg1 := v } ((shortenBit b p n).map fun b' =>
        ({ s with arg1 := v } : State).setBit bf s.arg0 b') :=
  hn ▸ command_atBit (s := { s with arg1 := v }) hs hb

/-- Settles O40: RESYNC edits the bit as LENGTHEN or SHORTEN by its size does, so `command_edit_alike` compares them. -/
theorem resyncResult : Obligations.ResyncResult := by
  intro bf s hs
  refine ⟨(EncodedOpcode.resync bf).1, bitBeyondEndRaisesRange _ s bf rfl hs, fun b tm1 tm2 hb htm1 htm2 => ?_⟩
  obtain rfl := isTimingOf_iff.mp htm1
  obtain rfl := isTimingOf_iff.mp htm2
  have hresync : exec (.resync bf) s = command s ((resyncBit s.params (s.slot bf).snap b s.arg1.toInt).map fun b' =>
      (s.setBit bf s.arg0 b').setResult0 (natWord (resyncBy (s.slot bf).snap b s.arg1.toInt))) := command_atBit hs hb
  refine ⟨fun he => ?_, fun i k hik => ?_⟩
  · obtain ⟨hbit, hsize⟩ := resyncBit_zero s.params (s.slot bf).snap b
    rw [hresync, he, hbit, hsize, Except.map, setBit_self hb, command_ok hs.1]
    rfl
  · obtain ⟨he, rfl, rfl⟩ | ⟨he, rfl, rfl⟩ := hik
    · obtain ⟨hbit, hsize⟩ := resyncBit_late s.params (s.slot bf).snap b he
      rw [hresync, hbit, hsize, exec_lengthen_arg1 .ph1 hs hb (toNat_ofNat_min _ _)]
      exact command_edit_alike hs.1 bf _ _ _
    · obtain ⟨hbit, hsize⟩ := resyncBit_early s.params (s.slot bf).snap b he
      rw [hresync, hbit, hsize, exec_shorten_arg1 .ph2 hs hb (toNat_ofNat_min _ _)]
      exact command_edit_alike hs.1 bf _ _ _

end Sys2Proof.TimeQuanta
end

section
/-! Selecting quanta and phases: FORCE_TQ, FORCE_CYCLE, FIRST_TQ, LAST_TQ and PREV_PHASE (41_bit_timing R182 to R187). -/

namespace Sys2Proof.TimeQuanta

open Sys2Proof.Machine Sys2Proof.Laws

/-! ### FORCE_TQ and FORCE_CYCLE -/

/-- The operands that select a quantum (41_bit_timing R182). -/
theorem selTq_ok {b : BitRec} {flag : Bool} {p : Phase} {n k : Nat} (h : selects b flag p n k) :
    selTq b flag p n = .ok k := by
  cases flag with
  | true =>
    obtain ⟨hn, k0, hfirst, rfl⟩ : n < b.count p ∧ ∃ k0, isFirstOf p b.tqs k0 ∧ k = k0 + n := h
    simp [selTq, first_of_isFirstOf hfirst, hn]
  | false =>
    obtain ⟨rfl, hn, rfl⟩ : p = .sync ∧ n < b.tqs.length ∧ k = n := h
    simp [selTq, hn]

theorem selTq_arg {b : BitRec} {p : Phase} {n : Nat} (hp : p ≠ .sync) : selTq b false p n = .error .arg := by
  simp [selTq, hp]

/-- Beyond the quanta of the bit or of the phase there is none to select (41_bit_timing R182). -/
theorem selTq_range {b : BitRec} {flag : Bool} {p : Phase} {n : Nat}
    (h : (flag = false ∧ p = .sync ∧ b.tqs.length ≤ n) ∨ (flag = true ∧ b.count p ≤ n)) :
    selTq b flag p n = .error .range := by
  obtain ⟨rfl, rfl, hn⟩ | ⟨rfl, hn⟩ := h
  · simp [selTq, hn]
  · cases hfirst : b.first p <;> simp [selTq, hfirst, hn]

/-- Where the operands select no quantum, both commands fail as the selection does. -/
theorem exec_force_error {s : State} {bf : BfIx} {b : BitRec} {flag : Bool} {p : Phase} (v : Level) {e : Err}
    (hs : s.ready bf) (hb : (s.slot bf).bits[s.arg0.toNat]? = some b) (h : selTq b flag p s.arg1.toNat = .error e) :
    exec (.forceTq bf flag p v) s = .next (s.failed e.code) ∧ exec (.forceCycle bf flag p v) s = .next (s.failed e.code) :=
  ⟨command_atBit_error e hs hb (congrArg (Except.map _) h), command_atBit_error e hs hb (congrArg (Except.bind · _) h)⟩

theorem modify_of_getElem? {α : Type} {l : List α} {k : Nat} {x : α} (f : α → α) (h : l[k]? = some x) :
    l.modify k f = l.set k (f x) := by
  simp [List.modify_eq_set_getElem?, h]

/-- Settles O38: the selection, and what is then done with the quantum selected. -/
theorem forceResults : Obligations.ForceResults := by
  intro bf flag p v s hs
  refine ⟨(EncodedOpcode.forceTq bf flag p v).1, (EncodedOpcode.forceCycle bf flag p v).1,
    fun hlen => ⟨bitBeyondEndRaisesRange _ s bf rfl hs hlen, bitBeyondEndRaisesRange _ s bf rfl hs hlen⟩,
    fun b hb => ⟨fun ⟨hflag, hp⟩ => ?_, fun hout => exec_force_error v hs hb (selTq_range hout), fun k q hk hq => ⟨?_, ?_⟩⟩⟩
  · subst hflag
    exact exec_force_error v hs hb (selTq_arg hp)
  · refine command_atBit_ok hs hb ((congrArg (Except.map _) (selTq_ok hk)).trans ?_)
    simp only [Except.map, modify_of_getElem? _ hq]
    rfl
  · by_cases hlen : q.len ≤ s.arg2.toNat
    · rw [if_pos hlen]
      refine command_atBit_error .range hs hb ((congrArg (Except.bind · _) (selTq_ok hk)).trans ?_)
      exact (withTq_some hq).trans (if_pos hlen)
    · rw [if_neg hlen]
      refine command_atBit_ok hs hb ((congrArg (Except.bind · _) (selTq_ok hk)).trans ?_)
      refine (withTq_some hq).trans ((if_neg hlen).trans ?_)
      simp only [modify_of_getElem? _ hq]
      rfl

/-! ### FIRST_TQ, LAST_TQ and PREV_PHASE -/

/-- No earlier phase with quanta is found where there is none (41_bit_timing R187). -/
theorem prevPhase_eq_none {b : BitRec} {p : Phase} (h : ∀ q : Phase, q.code.toNat < p.code.toNat → b.count q = 0) :
    b.prevPhase p = none := by
  refine List.head?_eq_none_iff.mpr (List.filter_eq_nil_iff.mpr fun q _ => ?_)
  simpa [phaseBefore] using h q

/-- The phase found is the latest earlier one that has quanta (41_bit_timing R187). -/
theorem prevPhase_eq_some {b : BitRec} {p q : Phase} (hq : q.code.toNat < p.code.toNat) (hcount : b.count q > 0)
    (hnone : ∀ r : Phase, q.code.toNat < r.code.toNat → r.code.toNat < p.code.toNat → b.count r = 0) :
    b.prevPhase p = some q := by
  have hfound : (phaseBefore q p && b.count q != 0) = true := by simp [phaseBefore, hq]; omega
  have hlater : ∀ r : Phase, q.code.toNat < r.code.toNat → (phaseBefore r p && b.count r != 0) = false := fun r hr => by
    simpa [phaseBefore] using hnone r hr
  unfold BitRec.prevPhase
  cases q with
  | sync => simp only [List.filter, hlater .ph1 (by decide), hlater .prop (by decide), hfound, List.head?_cons]
  | prop => simp only [List.filter, hlater .ph1 (by decide), hfound, List.head?_cons]
  | ph1 => simp only [List.filter, hfound, List.head?_cons]
  | ph2 => exact absurd hq (Nat.not_lt.mpr (Nat.le_of_lt_succ p.code.isLt))

/-- Settles O39: the first and the last quantum of the phase, and the phase before it, are what the model finds. -/
theorem navigationResults : Obligations.NavigationResults := by
  intro bf p s hs
  have hrange : ∀ i : Instr, i.touches.bitAt = some bf → (s.slot bf).bits.length ≤ s.arg0.toNat →
      exec i s = .next (s.failed 0x0A) := fun i hi => bitBeyondEndRaisesRange i s bf hi hs
  refine ⟨(EncodedOpcode.firstTq bf p).1, (EncodedOpcode.lastTq bf p).1, (EncodedOpcode.prevPhase bf p).1,
    fun hlen => ⟨hrange _ rfl hlen, hrange _ rfl hlen, hrange _ rfl hlen⟩, fun b hb => ⟨fun hcount => ⟨?_, ?_⟩,
    fun k hk => ?_, fun k hk => ?_, fun hnone => ?_, fun q hq hcount hnone => ?_⟩⟩
  · exact command_atBit_error .field hs hb (by rw [first_none.mpr hcount])
  · exact command_atBit_error .field hs hb (by rw [last_none.mpr hcount])
  · exact command_atBit_ok hs hb (by rw [first_of_isFirstOf hk]; rfl)
  · exact command_atBit_ok hs hb (by rw [last_of_isLastOf hk]; rfl)
  · exact command_atBit_error .field hs hb (by rw [prevPhase_eq_none hnone])
  · exact command_atBit_ok hs hb (by rw [prevPhase_eq_some hq hcount hnone]; rfl)

end Sys2Proof.TimeQuanta
end

section
/-! READ_CYCLE against the waveform of a slot (41_bit_timing R174, 43_queries R263). -/

namespace Sys2Proof.TimeQuanta

open Sys2Proof.Machine Sys2Proof.Laws

/-- In lists put together, element `j` of list `i` stands after all elements of the lists before. -/
theorem getElem?_flatMap {α β : Type} {f : α → List β} {l : List α} {i j : Nat} {x : α} (hx : l[i]? = some x)
    (hj : j < (f x).length) : (l.flatMap f)[((l.take i).map fun y => (f y).length).sum + j]? = (f x)[j]? := by
  obtain ⟨hi, rfl⟩ := List.getElem?_eq_some_iff.mp hx
  have hdrop := List.drop_sum_flatten (l.map f) i
  rw [List.map_map, ← List.map_take, ← List.map_drop, List.drop_eq_getElem_cons hi, List.map_cons, List.flatten_cons] at hdrop
  rw [← List.getElem?_drop, List.flatMap_def]
  exact (congrArg (·[j]?) hdrop).trans (List.getElem?_append_left hj)

/-- The wave of a quantum has one element for each of its cycles, so that of a bit has as many as the bit lasts. -/
theorem length_wave (b : BitRec) : b.wave.length = b.cycles := by
  simp [BitRec.wave, BitRec.cycles, List.length_flatMap]

/-- Cycle `c` of quantum `j` in the wave of its bit (41_bit_timing R174). -/
theorem getElem?_wave_bit {b : BitRec} {j c : Nat} {q : Tq} (hq : b.tqs[j]? = some q) (hc : c < q.len) :
    b.wave[((b.tqs.take j).map Tq.len).sum + c]? = some (effCycle b q c) := by
  have hget := getElem?_flatMap (f := fun q => (List.range q.len).map (effCycle b q)) hq (by simpa using hc)
  simp only [List.length_map, List.length_range] at hget
  exact hget.trans (by simp [hc])

/-- Cycle `c` of bit `i` in the wave of its slot (41_bit_timing R174). -/
theorem getElem?_wave_slot {f : BitFrame} {i c : Nat} {b : BitRec} (hb : f.bits[i]? = some b) (hc : c < b.cycles) :
    f.wave[((f.bits.take i).map BitRec.cycles).sum + c]? = b.wave[c]? := by
  have hget := getElem?_flatMap (f := BitRec.wave) hb (by rwa [length_wave])
  simp only [length_wave] at hget
  exact hget

/-- Bit 0 of the cycle word is the effective value of the cycle (30_encoding R99). -/
theorem getLsbD_cycleWord (b : BitRec) (q : Tq) (c : Nat) : (cycleWord b q c).getLsbD 0 = (effCycle b q c).bit := by
  simp [cycleWord, placeBit, place]

/-- Settles O52: the cycle in the wave of its bit, and that wave in the one of the slot. -/
theorem waveIsReadCycleByCycle : Obligations.WaveIsReadCycleByCycle := by
  intro bf s b q hs hb hq hc
  have hbit := getElem?_wave_bit hq hc
  have hlt : ((b.tqs.take s.arg1.toNat).map Tq.len).sum + s.arg2.toNat < b.cycles :=
    length_wave b ▸ (List.getElem?_eq_some_iff.mp hbit).1
  refine ⟨s.setResult0 (cycleWord b q s.arg2.toNat), effCycle b q s.arg2.toNat, command_atBit_ok hs hb ?_,
    getLsbD_cycleWord b q _, ?_⟩
  · exact (withTq_some hq).trans (if_neg (Nat.not_le.mpr hc))
  · rw [Nat.add_assoc, getElem?_wave_slot hb hlt, hbit]

end Sys2Proof.TimeQuanta
end

section
/-! Bits that differ in the values of some tags only, and filling the bits of a tag (42_encoder R230). -/

namespace Sys2Proof.Encoder

open Sys2Proof.Machine Sys2Proof.Laws

/-! ### Bits that differ in values only -/

@[simp] theorem blank_tag (p : Tag → Bool) (b : BitRec) : (b.blank p).tag = b.tag := by unfold BitRec.blank; split <;> rfl

@[simp] theorem blank_stuff (p : Tag → Bool) (b : BitRec) : (b.blank p).stuff = b.stuff := by
  unfold BitRec.blank; split <;> rfl

theorem blank_setValue {p : Tag → Bool} {b : BitRec} (h : p b.tag = true) (v : Level) :
    ({ b with value := v } : BitRec).blank p = b.blank p := by simp [BitRec.blank, h]

/-- Two lists hold the same bits, but for the values of bits with a tag of `p`. -/
def SameBut (p : Tag → Bool) (l l' : List BitRec) : Prop :=
  l.map (BitRec.blank p) = l'.map (BitRec.blank p)

theorem SameBut.map {α : Type} {p : Tag → Bool} {l l' : List BitRec} (h : SameBut p l l') {g : BitRec → α}
    (hg : ∀ b : BitRec, g (b.blank p) = g b) : l.map g = l'.map g := by
  have hmap := congrArg (List.map g) h
  simpa [Function.comp_def, hg] using hmap

theorem SameBut.length_eq {p : Tag → Bool} {l l' : List BitRec} (h : SameBut p l l') : l.length = l'.length := by
  simpa using congrArg List.length h

/-- What tags and stuff kinds the bits of a list can have does not depend on the blanked values. -/
theorem SameBut.forall_tag_stuff {p : Tag → Bool} {l l' : List BitRec} (h : SameBut p l l') {Q : Tag → StuffKind → Prop}
    (hl : ∀ b ∈ l', Q b.tag b.stuff) : ∀ b ∈ l, Q b.tag b.stuff := by
  intro b hb
  have hmem : (b.tag, b.stuff) ∈ l'.map fun b => (b.tag, b.stuff) :=
    h.map (g := fun b => (b.tag, b.stuff)) (by simp) ▸ List.mem_map_of_mem hb
  obtain ⟨b', hb', heq⟩ := List.mem_map.mp hmem
  obtain ⟨ht, hk⟩ := Prod.mk.inj heq
  exact ht ▸ hk ▸ hl b' hb'

theorem SameBut.isEmpty_eq {p : Tag → Bool} {l l' : List BitRec} (h : SameBut p l l') : l.isEmpty = l'.isEmpty := by
  simpa using congrArg List.isEmpty h

theorem SameBut.append {p : Tag → Bool} {k k' l l' : List BitRec} (hk : SameBut p k k') (hl : SameBut p l l') :
    SameBut p (k ++ l) (k' ++ l') := by
  rw [SameBut, List.map_append, List.map_append, hk, hl]

theorem SameBut.head? {p : Tag → Bool} {l l' : List BitRec} (h : SameBut p l l') {Q : Tag → Prop}
    (hl : ∀ b ∈ l'.head?, Q b.tag) : ∀ b ∈ l.head?, Q b.tag := by
  intro b hb
  have hhead : some b.tag = l'.head?.map BitRec.tag := by
    simpa [Option.mem_def.mp hb] using congrArg List.head? (h.map (g := BitRec.tag) (by simp))
  obtain ⟨b', hb', ht⟩ := Option.map_eq_some_iff.mp hhead.symm
  exact ht ▸ hl b' hb'

theorem SameBut.length_ofTag {p : Tag → Bool} {l l' : List BitRec} (h : SameBut p l l') (t : Tag) :
    (ofTag t l).length = (ofTag t l').length := by
  have hcount := congrArg (List.countP (· == t)) (h.map (g := BitRec.tag) (by simp))
  rw [List.countP_map, List.countP_map] at hcount
  simpa [ofTag, List.countP_eq_length_filter, Function.comp_def] using hcount

/-- Bits that are none but blanked ones in the other list are those of that list. -/
theorem SameBut.eq {p : Tag → Bool} {l l' : List BitRec} (h : SameBut p l l')
    (hl : ∀ b ∈ l', p b.tag = false) : l = l' := by
  have hblank : ∀ l : List BitRec, (∀ b ∈ l, p b.tag = false) → l.map (BitRec.blank p) = l := fun l hl =>
    (List.map_congr_left fun b hb => by simp [BitRec.blank, hl b hb]).trans (List.map_id l)
  have hl2 : ∀ b ∈ l, p b.tag = false := h.forall_tag_stuff (Q := fun t _ => p t = false) hl
  rwa [SameBut, hblank l hl2, hblank l' hl] at h

/-! ### Filling the bits of a tag -/

theorem fillTag_sameBut {p : Tag → Bool} {t : Tag} (h : p t = true) (vs : List Level) (bits : List BitRec) :
    SameBut p (fillTag t vs bits) bits := by
  induction bits generalizing vs with
  | nil => simp [SameBut, fillTag]
  | cons b bits ih =>
    cases vs with
    | nil => rfl
    | cons v vs =>
      unfold fillTag
      split
      · next hb => exact List.cons_eq_cons.mpr ⟨blank_setValue (hb ▸ h) v, ih vs⟩
      · exact List.cons_eq_cons.mpr ⟨rfl, ih _⟩

/-- Filling a tag leaves the other bits as they are. -/
theorem filter_fillTag {t : Tag} {q : BitRec → Bool} (hq : ∀ b : BitRec, b.tag = t → q b = false) (vs : List Level)
    (bits : List BitRec) : (fillTag t vs bits).filter q = bits.filter q := by
  induction bits generalizing vs with
  | nil => simp [fillTag]
  | cons b bits ih =>
    cases vs with
    | nil => rfl
    | cons v vs =>
      unfold fillTag
      split
      · next hb => simp [hq b hb, hq { b with value := v } hb, ih vs]
      · simp [List.filter_cons, ih]

/-- The bits filled carry the values, as far as there are bits. -/
theorem values_fillTag {t : Tag} {vs : List Level} {bits : List BitRec} (h : (ofTag t bits).length ≤ vs.length) :
    values (ofTag t (fillTag t vs bits)) <+: vs := by
  induction bits generalizing vs with
  | nil => simp [fillTag, ofTag, values]
  | cons b bits ih =>
    by_cases hb : b.tag = t
    · cases vs with
      | nil => simp [ofTag, hb] at h
      | cons v vs =>
        have hlen : (ofTag t bits).length ≤ vs.length := by simpa [ofTag, hb] using h
        simpa [fillTag, ofTag, values, hb] using ih hlen
    · have hlen : (ofTag t bits).length ≤ vs.length := by simpa [ofTag, hb] using h
      cases vs with
      | nil => simpa [fillTag, ofTag, values, hb] using hlen
      | cons v vs => simpa [fillTag, ofTag, values, hb] using ih hlen

/-- Filling changes nothing where the bits carry the values already. -/
theorem fillTag_eq_self {t : Tag} {vs : List Level} {bits : List BitRec} (h : values (ofTag t bits) <+: vs) :
    fillTag t vs bits = bits := by
  induction bits generalizing vs with
  | nil => simp [fillTag]
  | cons b bits ih =>
    cases vs with
    | nil => rfl
    | cons v vs =>
      by_cases hb : b.tag = t
      · obtain ⟨rfl, htail⟩ : b.value = v ∧ values (ofTag t bits) <+: vs := by simpa [ofTag, values, hb] using h
        rw [fillTag, if_pos hb, ih htail]
      · have htail : values (ofTag t bits) <+: v :: vs := by simpa [ofTag, values, hb] using h
        simp [fillTag, hb, ih htail]

/-! ### Filling the bits of a tag where a command asks for it -/

theorem fillTag_ite_sameBut {p : Tag → Bool} {t : Tag} {r : Bool} (h : r = true → p t = true) (vs : List Level)
    (bits : List BitRec) : SameBut p (if r then fillTag t vs bits else bits) bits := by
  split
  · next hr => exact fillTag_sameBut (h hr) vs bits
  · rfl

theorem filter_fillTag_ite {t : Tag} {q : BitRec → Bool} (hq : ∀ b : BitRec, b.tag = t → q b = false) (r : Bool)
    (vs : List Level) (bits : List BitRec) : (if r then fillTag t vs bits else bits).filter q = bits.filter q := by
  split
  · exact filter_fillTag hq vs bits
  · rfl

end Sys2Proof.Encoder
end

section
/-! What `Restuff` answers, in both formats: the bits of a region with regular stuff bits, then those of a CRC field with
fixed ones (42_encoder R220 to R230). -/

namespace Sys2Proof.Encoder

open Sys2Proof.Machine Sys2Proof.Laws

/-- A region with its regular stuff bits, the one behind its last bit left out where a CRC field follows (42_encoder R220,
R222). -/
def stuffedRegion (sn : Snap) (region field : List BitRec) : List BitRec :=
  regStuff sn (!field.isEmpty) region

/-- A region and a CRC field, both stuffed; a Classical frame is all region (42_encoder R220, R223). -/
def stuffed (sn : Snap) (region field : List BitRec) : List BitRec :=
  fixStuff sn (stuffedRegion sn region field) field

/-- The stuff count: the regular stuff bits of a region (42_encoder R225). -/
def regularCount (bits : List BitRec) : Nat :=
  bits.countP fun b => b.stuff == .regular

/-- The values the CRC covers (42_encoder R228, R229). -/
def coveredValues (sn : Snap) (region field : List BitRec) : List Level :=
  if sn.flags.fdf then values (stuffedRegion sn region field) ++ values (notTag .crc field) else values (notTag .crc region)

/-- The tags of the bits whose values `Restuff` writes (42_encoder R230). -/
def rewritten (fdf recompute : Bool) (t : Tag) : Bool :=
  (recompute && t == .crc) || (fdf && (t == .stuffCount || t == .stuffParity))

/-- A region and a CRC field as `Restuff` leaves them before it puts the stuff bits in: where they are split, how many bits
the CRC field has at most, and the values it holds (42_encoder R225 to R230). -/
structure Parts (sn : Snap) (recompute : Bool) (region field : List BitRec) : Prop where
  plain     : ∀ b ∈ region ++ field, b.stuff = .none ∧ b.tag.inFrame = true
  classical : sn.flags.fdf = false → field = []
  before    : sn.flags.fdf = true → ∀ b ∈ region, inCrcField b.tag = false
  head      : ∀ b ∈ field.head?, inCrcField b.tag = true
  count     : values (ofTag .stuffCount field) <+: msbFirst (grayCount (regularCount (stuffedRegion sn region field)))
  parity    : values (ofTag .stuffParity field) <+: [grayParity (regularCount (stuffedRegion sn region field))]
  crcFits   : (ofTag .crc (region ++ field)).length ≤ crcWidth sn.flags.fdf sn.dlen
  crc       : recompute = true → values (ofTag .crc (region ++ field)) <+:
    crcBits sn.flags.fdf sn.dlen (coveredValues sn region field)

@[simp] theorem length_msbFirst {w : Nat} (x : BitVec w) : (msbFirst x).length = w := by simp [msbFirst]

@[simp] theorem length_values (bits : List BitRec) : (values bits).length = bits.length := List.length_map _

theorem length_crcBits (fdf : Bool) (dlen : BitVec 7) (bits : List Level) :
    (crcBits fdf dlen bits).length = crcWidth fdf dlen := by
  unfold crcBits crcWidth
  split
  · split <;> exact length_msbFirst _
  · exact length_msbFirst _

@[simp] theorem ofTag_append (t : Tag) (l l' : List BitRec) : ofTag t (l ++ l') = ofTag t l ++ ofTag t l' :=
  List.filter_append ..

/-- A part without bits of the CRC field has none of each of its tags. -/
theorem ofTag_eq_nil {t : Tag} {l : List BitRec} (ht : inCrcField t = true) (h : ∀ b ∈ l, inCrcField b.tag = false) :
    ofTag t l = [] := by
  refine List.filter_eq_nil_iff.mpr fun b hb hbt => ?_
  obtain rfl : b.tag = t := by simpa using hbt
  cases ht.symm.trans (h b hb)

/-- More bits of the CRC field than the format has, among the logical bits of a slot (42_encoder R230, R234). -/
def tooManyCrcFieldBits (sn : Snap) (l : List BitRec) : Prop :=
  (sn.flags.fdf = true ∧ ((ofTag .stuffCount l).length > 3 ∨ (ofTag .stuffParity l).length > 1)) ∨
    (ofTag .crc l).length > crcWidth sn.flags.fdf sn.dlen

/-- `Restuff` in a Classical frame: all its logical bits are region. -/
theorem restuffClassical_cases {sn : Snap} (hfdf : sn.flags.fdf = false) (r : Bool) {l : List BitRec}
    (hl : ∀ b ∈ l, b.stuff = .none ∧ b.tag.inFrame = true) :
    (tooManyCrcFieldBits sn l ∧ restuffClassical sn r l = .error .field) ∨
      (¬tooManyCrcFieldBits sn l ∧ ∃ region field, Parts sn r region field ∧
        restuffClassical sn r l = .ok (stuffed sn region field) ∧ SameBut (rewritten false r) (region ++ field) l) := by
  unfold restuffClassical
  split
  · next h => exact .inl ⟨.inr (hfdf ▸ h), rfl⟩
  · next h =>
    extract_lets l'
    have hsame : SameBut (rewritten false r) l' l := fillTag_ite_sameBut (by simp [rewritten]) _ _
    have hother : notTag .crc l' = notTag .crc l := filter_fillTag_ite (by simp) _ _ _
    refine .inr ⟨by simp [tooManyCrcFieldBits, hfdf, h], l', [], ?_, ?_, by simpa using hsame⟩
    · refine ⟨?_, fun _ => rfl, by simp [hfdf], nofun, List.nil_prefix, List.nil_prefix, ?_, ?_⟩
      · simpa using hsame.forall_tag_stuff (Q := fun t k => k = .none ∧ t.inFrame = true) hl
      · rw [List.append_nil, hsame.length_ofTag, hfdf]
        exact Nat.le_of_not_lt h
      · rintro rfl
        rw [coveredValues, if_neg (by simp [hfdf]), hfdf, List.append_nil, hother]
        exact values_fillTag (by rw [length_crcBits]; exact Nat.le_of_not_lt h)
    · simp [stuffed, stuffedRegion, fixStuff, fixStuffFrom]

/-- `Restuff` in an FD frame: its CRC field starts with the first logical bit that has a tag of it. -/
theorem restuffFd_cases {sn : Snap} (hfdf : sn.flags.fdf = true) (r : Bool) {l : List BitRec}
    (hl : ∀ b ∈ l, b.stuff = .none ∧ b.tag.inFrame = true) :
    (tooManyCrcFieldBits sn l ∧ restuffFd sn r l = .error .field) ∨
      (¬tooManyCrcFieldBits sn l ∧ ∃ region field, Parts sn r region field ∧
        restuffFd sn r l = .ok (stuffed sn region field) ∧ SameBut (rewritten true r) (region ++ field) l) := by
  unfold restuffFd
  extract_lets pre post out cnt post' post''
  have hpre : ∀ b ∈ pre, inCrcField b.tag = false := fun b hb => by
    simpa using List.mem_takeWhile_imp (p := fun b : BitRec => !inCrcField b.tag) hb
  have hlpost : pre ++ post = l := List.takeWhile_append_dropWhile
  have hof : ∀ t, inCrcField t = true → ofTag t l = ofTag t post := fun t ht => by
    rw [← hlpost, ofTag_append, ofTag_eq_nil ht hpre, List.nil_append]
  have hmany : tooManyCrcFieldBits sn l ↔ ((ofTag .stuffCount post).length > 3 ∨ (ofTag .stuffParity post).length > 1
      ∨ (ofTag .crc post).length > crcWidth true sn.dlen) := by
    simp [tooManyCrcFieldBits, hfdf, hof .stuffCount rfl, hof .stuffParity rfl, hof .crc rfl, or_assoc]
  rw [hmany]
  split
  · next h => exact .inl ⟨h, rfl⟩
  · next h =>
    refine .inr ⟨h, pre, post'', ?_⟩
    obtain ⟨hsc, hsp, hcrc⟩ : (ofTag .stuffCount post).length ≤ 3 ∧ (ofTag .stuffParity post).length ≤ 1 ∧
      (ofTag .crc post).length ≤ crcWidth true sn.dlen := by omega
    have hsame' : SameBut (rewritten true r) post' post :=
      (fillTag_sameBut (by simp [rewritten]) _ _).trans (fillTag_sameBut (by simp [rewritten]) _ _)
    have hsame : SameBut (rewritten true r) post'' post := (fillTag_ite_sameBut (by simp [rewritten]) _ _).trans hsame'
    have hall : SameBut (rewritten true r) (pre ++ post'') l := hlpost ▸ SameBut.append rfl hsame
    have hout : stuffedRegion sn pre post'' = out := by rw [stuffedRegion, hsame.isEmpty_eq]
    have hcount : ofTag .stuffCount post'' = ofTag .stuffCount (fillTag .stuffCount (msbFirst (grayCount cnt)) post) :=
      (filter_fillTag_ite (by simp +contextual) _ _ _).trans (filter_fillTag (by simp +contextual) _ _)
    have hparity : ofTag .stuffParity post'' = ofTag .stuffParity post' := filter_fillTag_ite (by simp +contextual) _ _ _
    have hother : notTag .crc post'' = notTag .crc post' := filter_fillTag_ite (by simp) _ _ _
    refine ⟨⟨?_, by simp [hfdf], fun _ => hpre, ?_, ?_, ?_, ?_, ?_⟩, by rw [stuffed, hout], hall⟩
    · exact hall.forall_tag_stuff (Q := fun t k => k = .none ∧ t.inFrame = true) hl
    · refine hsame.head? (Q := fun t => inCrcField t = true) fun b hb => ?_
      have hstop := List.head?_dropWhile_not (fun b : BitRec => !inCrcField b.tag) l
      rw [Option.mem_def.mp hb] at hstop
      simpa using hstop
    · rw [hout, hcount]
      exact values_fillTag (by simpa using hsc)
    · rw [hout, hparity]
      refine values_fillTag ?_
      rwa [(fillTag_sameBut (p := fun _ => true) rfl _ _).length_ofTag]
    · rw [ofTag_append, ofTag_eq_nil rfl hpre, List.nil_append, hsame.length_ofTag, hfdf]
      exact hcrc
    · rintro rfl
      rw [ofTag_append, ofTag_eq_nil rfl hpre, List.nil_append, coveredValues, if_pos hfdf, hout, hother, hfdf]
      exact values_fillTag (by rw [length_crcBits, hsame'.length_ofTag]; exact hcrc)

/-- The logical bits of a slot: those of its frame part, the stuff bits taken out (42_encoder R230). -/
def plainBits (f : BitFrame) : List BitRec :=
  f.prefixBits.filter fun b => b.stuff == .none

/-- `Restuff` works on the logical bits of a slot, by its format, and keeps the rest. -/
theorem restuff_plainBits (f : BitFrame) (r : Bool) : restuff f.snap r f.bits = (if f.snap.flags.fdf then
    restuffFd f.snap r (plainBits f) else restuffClassical f.snap r (plainBits f)).map fun out => out ++ f.restBits :=
  rfl

theorem tooManyCrcFieldBits_iff (f : BitFrame) : tooManyCrcFieldBits f.snap (plainBits f) ↔ f.crcFieldTooLong := by
  have hlen : ∀ t, (ofTag t (plainBits f)).length = f.prefixBits.countP fun b => b.stuff == .none && b.tag == t := fun t => by
    rw [ofTag, ← List.countP_eq_length_filter, plainBits, List.countP_filter]
    simp only [Bool.and_comm]
  simp only [tooManyCrcFieldBits, BitFrame.crcFieldTooLong, hlen, crcWidth]
  cases f.snap.flags.fdf <;> simp [or_assoc]

/-- Everything `Restuff` can do with a slot: `E_FIELD` where it has too many bits of the CRC field; otherwise its logical
bits, the values of some tags written, with the stuff bits of their format, then the rest (42_encoder R230). -/
theorem restuff_cases (f : BitFrame) (r : Bool) :
    (f.crcFieldTooLong ∧ restuff f.snap r f.bits = .error .field) ∨
      (¬f.crcFieldTooLong ∧ ∃ region field, Parts f.snap r region field ∧
        restuff f.snap r f.bits = .ok (stuffed f.snap region field ++ f.restBits) ∧
        SameBut (rewritten f.snap.flags.fdf r) (region ++ field) (plainBits f)) := by
  have hplain : ∀ b ∈ plainBits f, b.stuff = .none ∧ b.tag.inFrame = true := fun b hb => by
    obtain ⟨hmem, hnone⟩ := List.mem_filter.mp hb
    exact ⟨by simpa using hnone, List.mem_takeWhile_imp (p := fun b : BitRec => b.tag.inFrame) hmem⟩
  rw [restuff_plainBits, ← tooManyCrcFieldBits_iff]
  cases hfdf : f.snap.flags.fdf with
  | false =>
    obtain ⟨hmany, heq⟩ | ⟨hmany, region, field, hparts, heq, hsame⟩ := restuffClassical_cases hfdf r hplain
    · exact .inl ⟨hmany, by simp [heq, Except.map]⟩
    · exact .inr ⟨hmany, region, field, hparts, by simp [heq, Except.map], hsame⟩
  | true =>
    obtain ⟨hmany, heq⟩ | ⟨hmany, region, field, hparts, heq, hsame⟩ := restuffFd_cases hfdf r hplain
    · exact .inl ⟨hmany, by simp [heq, Except.map]⟩
    · exact .inr ⟨hmany, region, field, hparts, by simp [heq, Except.map], hsame⟩

end Sys2Proof.Encoder
end


section
/-! The stuff bits among the bits of a stuffed list, and how a slot splits where its bits are stuffed ones
(42_encoder R220 to R223, R230, R235). -/

namespace Sys2Proof.Encoder

open Sys2Proof.Machine Sys2Proof.Laws Sys2Proof.Invariant

/-- Taking the stuff bits out undoes regular stuffing (42_encoder R235). -/
theorem filter_regStuff (sn : Snap) (last : Bool) {bits : List BitRec} (h : ∀ b ∈ bits, b.stuff = .none) :
    (regStuff sn last bits).filter (fun b => b.stuff == .none) = bits := by
  suffices hfrom : ∀ rv rl, (regStuffFrom sn last rv rl bits).filter (fun b => b.stuff == .none) = bits from hfrom none 0
  induction bits with
  | nil => simp [regStuffFrom]
  | cons b bits ih =>
    obtain ⟨hb, hbits⟩ := List.forall_mem_cons.mp h
    intro rv rl
    unfold regStuffFrom
    extract_lets rl'
    split <;> simp [hb, ih hbits]

/-- And so it does fixed stuffing. -/
theorem filter_fixStuffFrom (sn : Snap) (pv : Level) (j : Nat) {bits : List BitRec} (h : ∀ b ∈ bits, b.stuff = .none) :
    (fixStuffFrom sn pv j bits).filter (fun b => b.stuff == .none) = bits := by
  induction bits generalizing pv j with
  | nil => simp [fixStuffFrom]
  | cons b bits ih =>
    obtain ⟨hb, hbits⟩ := List.forall_mem_cons.mp h
    unfold fixStuffFrom
    split <;> simp [hb, ih _ _ hbits]

section

variable {sn : Snap} {r : Bool} {region field : List BitRec}

/-- Every bit of a stuffed list has what its logical bits have, where a stuff bit has it from the bit next to it. -/
theorem stuffed_inherits {P : BitRec → Prop} (hP : Inherited sn P) (h : ∀ b ∈ region ++ field, P b) :
    ∀ b ∈ stuffed sn region field, P b := by
  obtain ⟨hregion, hfield⟩ := List.forall_mem_append.mp h
  exact fixStuff_inherits hP (regStuff_inherits hP _ hregion) hfield

theorem inFrame_inherited (sn : Snap) : Inherited sn fun b => b.tag.inFrame = true :=
  ⟨fun _ _ => id, fun _ _ => id, fun _ _ _ => id⟩

theorem fresh_inherited (sn : Snap) : Inherited sn (BitRec.fresh sn) where
  value b v h := by
    rw [BitRec.fresh] at h ⊢
    exact congrArg (fun b : BitRec => { b with value := v }) h
  regular _ _ _ := rfl
  fixed _ _ _ _ := rfl

/-- A stuff bit `Restuff` puts in is a fresh one. -/
theorem freshStuff_inherited (sn : Snap) : Inherited sn fun b => b.stuff ≠ .none → b.fresh sn where
  value b v h hs := (fresh_inherited sn).value b v (h hs)
  regular _ _ _ _ := rfl
  fixed _ _ _ _ _ := rfl

theorem Parts.inFrame (h : Parts sn r region field) : ∀ b ∈ stuffed sn region field, b.tag.inFrame = true :=
  stuffed_inherits (inFrame_inherited sn) fun b hb => (h.plain b hb).2

theorem Parts.fresh (h : Parts sn r region field) : ∀ b ∈ stuffed sn region field, b.stuff ≠ .none → b.fresh sn :=
  stuffed_inherits (freshStuff_inherited sn) fun b hb hs => absurd (h.plain b hb).1 hs

/-- Taking the stuff bits out leaves the region and the CRC field (42_encoder R235). -/
theorem Parts.filter_stuffed (h : Parts sn r region field) :
    (stuffed sn region field).filter (fun b => b.stuff == .none) = region ++ field := by
  obtain ⟨hregion, hfield⟩ := List.forall_mem_append.mp h.plain
  rw [stuffed, fixStuff, List.filter_append, stuffedRegion, filter_regStuff sn _ fun b hb => (hregion b hb).1,
    filter_fixStuffFrom sn _ _ fun b hb => (hfield b hb).1]

/-- What a `Restuff` that also writes the CRC leaves is what one that does not write it leaves, too. -/
theorem Parts.mono (h : Parts sn r region field) {r' : Bool} (hr : r' = true → r = true) : Parts sn r' region field :=
  { h with crc := fun h' => h.crc (hr h') }

/-- A part whose bits all pass a test, and one whose first bit does not, are where the test splits the two. -/
theorem takeWhile_dropWhile_append {α : Type} {p : α → Bool} {l l' : List α} (hl : ∀ a ∈ l, p a = true)
    (hl' : ∀ a ∈ l'.head?, p a = false) : (l ++ l').takeWhile p = l ∧ (l ++ l').dropWhile p = l' := by
  rw [List.takeWhile_append_of_pos hl, List.dropWhile_append_of_pos hl]
  cases l' with
  | nil => simp
  | cons a l' => simp [hl' a rfl]

/-- `Restuff` of logical bits that are as it leaves them answers them stuffed (42_encoder R235). -/
theorem Parts.restuff_eq (h : Parts sn r region field) :
    (if sn.flags.fdf then restuffFd sn r (region ++ field) else restuffClassical sn r (region ++ field)) =
      .ok (stuffed sn region field) := by
  cases hfdf : sn.flags.fdf with
  | false =>
    obtain rfl := h.classical hfdf
    have hfits : ¬(ofTag .crc region).length > crcWidth false sn.dlen := by
      simpa [hfdf] using h.crcFits
    have hfill : (if r then fillTag .crc (crcBits false sn.dlen (values (notTag .crc region))) region else region) =
        region := by
      split
      · next hr => exact fillTag_eq_self (by simpa [hfdf, coveredValues] using h.crc hr)
      · rfl
    simp [restuffClassical, hfits, hfill, stuffed, stuffedRegion, fixStuff, fixStuffFrom]
  | true =>
    have hbefore := h.before hfdf
    obtain ⟨htake, hdrop⟩ := takeWhile_dropWhile_append (p := fun b : BitRec => !inCrcField b.tag) (l := region)
      (l' := field) (fun b hb => by simp [hbefore b hb]) fun b hb => by simp [h.head b hb]
    have hcrcFits := h.crcFits
    rw [ofTag_append, ofTag_eq_nil rfl hbefore, List.nil_append, hfdf] at hcrcFits
    have hcountFits : (ofTag .stuffCount field).length ≤ 3 := by simpa using h.count.length_le
    have hparityFits : (ofTag .stuffParity field).length ≤ 1 := by simpa using h.parity.length_le
    have hfill : (if r then fillTag .crc (crcBits true sn.dlen (values (stuffedRegion sn region field) ++
        values (notTag .crc field))) field else field) = field := by
      split
      · next hr =>
        have hcrc := h.crc hr
        rw [ofTag_append, ofTag_eq_nil rfl hbefore, List.nil_append, hfdf, coveredValues, if_pos hfdf] at hcrc
        exact fillTag_eq_self hcrc
      · rfl
    simp only [if_true, restuffFd, htake, hdrop]
    rw [if_neg (by omega)]
    have h1 := fillTag_eq_self h.count
    have h2 := fillTag_eq_self h.parity
    simp only [regularCount, stuffedRegion] at h1 h2 hfill
    rw [h1, h2, hfill]
    rfl

end

/-! ### Slots as `Restuff` leaves them -/

/-- The frame part of a slot is a region and a CRC field as `Restuff` leaves them, stuffed (42_encoder R230). -/
structure Encoded (f : BitFrame) (r : Bool) (region field : List BitRec) : Prop extends Parts f.snap r region field where
  front : f.prefixBits = stuffed f.snap region field

theorem prefixBits_append_restBits (f : BitFrame) : f.prefixBits ++ f.restBits = f.bits :=
  List.takeWhile_append_dropWhile

/-- The rest of a slot starts with a bit that has no frame tag. -/
theorem head_restBits (f : BitFrame) : ∀ b ∈ f.restBits.head?, b.tag.inFrame = false := fun b hb => by
  have hstop := List.head?_dropWhile_not (fun b : BitRec => b.tag.inFrame) f.bits
  rw [show (f.bits.dropWhile fun b => b.tag.inFrame).head? = some b from hb] at hstop
  exact hstop

/-- What `Restuff` answers for a slot, put into it: only the frame part is new. -/
theorem encoded_setBits {f : BitFrame} {r : Bool} {region field : List BitRec} (h : Parts f.snap r region field) :
    Encoded { f with bits := stuffed f.snap region field ++ f.restBits } r region field ∧
      BitFrame.restBits { f with bits := stuffed f.snap region field ++ f.restBits } = f.restBits := by
  obtain ⟨htake, hdrop⟩ := takeWhile_dropWhile_append h.inFrame (head_restBits f)
  exact ⟨⟨h, htake⟩, hdrop⟩

section

variable {f : BitFrame} {r : Bool} {region field : List BitRec} (h : Encoded f r region field)
include h

theorem Encoded.bits_eq : f.bits = stuffed f.snap region field ++ f.restBits := by
  rw [← h.front, prefixBits_append_restBits]

theorem Encoded.plainBits_eq : plainBits f = region ++ field := by
  rw [plainBits, h.front, h.filter_stuffed]

/-- `Restuff` changes nothing in a slot that is as it leaves slots (42_encoder R235). -/
theorem Encoded.restuff_eq : restuff f.snap r f.bits = .ok f.bits := by
  rw [restuff_plainBits, h.plainBits_eq, h.toParts.restuff_eq, Except.map, h.bits_eq.symm]

/-- The stuffed region of the slot is its region with the regular stuff bits. -/
theorem Encoded.stuffRegion_eq : f.stuffRegion = stuffedRegion f.snap region field := by
  have hregion := (List.forall_mem_append.mp h.plain).1
  have hin : ∀ b ∈ stuffedRegion f.snap region field,
      (b.tag.inFrame && !(f.snap.flags.fdf && inCrcField b.tag)) = true := by
    refine regStuff_inherits ⟨fun _ _ => id, fun _ _ => id, fun _ _ _ => id⟩ _ fun b hb => ?_
    cases hfdf : f.snap.flags.fdf with
    | false => simp [(hregion b hb).2]
    | true => simp [(hregion b hb).2, h.before hfdf b hb]
  rw [BitFrame.stuffRegion, h.bits_eq, stuffed, fixStuff, List.append_assoc]
  refine (takeWhile_dropWhile_append hin fun b hb => ?_).1
  cases field with
  | nil => simp [head_restBits f b hb]
  | cons c field =>
    have hc : inCrcField c.tag = true := h.head c rfl
    have hfdf : f.snap.flags.fdf = true := by
      by_contra hfdf
      cases h.classical (by simpa using hfdf)
    obtain rfl : stuffBit f.snap c.tag (lastValue (stuffedRegion f.snap region (c :: field))) .fixed false = b := by
      simpa [fixStuffFrom] using hb
    simp [hc, hfdf]

end

end Sys2Proof.Encoder
end

section
/-! UPDATE (42_encoder R234): its outcome, what it leaves in the slot, and that it is idempotent (R235). -/

namespace Sys2Proof.Encoder

open Sys2Proof.Machine Sys2Proof.Laws Sys2Proof.Invariant

/-- A command that records no error commits the state of its body. -/
theorem body_eq_ok {s t : State} {body : Except Err State} (hs : s.status.err = false) (h : command s body = .next t)
    (ht : t.status.err = false) : body = .ok t := by
  obtain ⟨herr, -⟩ | ⟨-, hbody⟩ | ⟨-, e, -, rfl⟩ := command_cases h
  · cases hs.symm.trans herr
  · exact hbody
  · cases ht

/-- Where the capacity check lets bits pass, it answers them, and each fresh one fits. -/
theorem withinCapacity_ok {c : Config.Params} {made bits out : List BitRec} (h : withinCapacity c made bits = .ok out) :
    out = bits ∧ bits.length ≤ c.maxBits ∧ ∀ b ∈ made, b.fits c = true := by
  obtain ⟨hlen, hfits, heq⟩ | ⟨-, heq⟩ := withinCapacity_cases c made bits
  · exact ⟨Except.ok.inj (h.symm.trans heq), hlen, hfits⟩
  · cases heq.symm.trans h

/-- The capacity check lets the same bits pass where fewer of them are fresh. -/
theorem withinCapacity_subset {c : Config.Params} {made made' bits out : List BitRec}
    (h : withinCapacity c made bits = .ok out) (hsub : made' ⊆ made) : withinCapacity c made' bits = .ok bits := by
  obtain ⟨-, hlen, hfits⟩ := withinCapacity_ok h
  obtain ⟨-, -, heq⟩ | ⟨hmany | ⟨b, hb, hbig⟩, -⟩ := withinCapacity_cases c made' bits
  · exact heq
  · omega
  · exact nomatch (hfits b (hsub hb)).symm.trans hbig

/-- An UPDATE that completes: what it puts into the slot, within the capacity check. -/
theorem update_completes {bf : BfIx} {flag : Bool} {s t : State} (hs : s.status.err = false)
    (h : exec (.update bf flag) s = .next t) (ht : t.status.err = false) : (s.slot bf).valid = true ∧
      ∃ bits, restuff (s.slot bf).snap flag (s.slot bf).bits = .ok bits ∧
        withinCapacity s.params (rebuiltStuff bits) bits = .ok bits ∧ t = s.setBits bf bits := by
  obtain ⟨hvalid, hbody⟩ := withSlot_ok (body_eq_ok hs h ht)
  refine ⟨hvalid, ?_⟩
  cases hrestuff : restuff (s.slot bf).snap flag (s.slot bf).bits with
  | error e => simp [hrestuff, Except.bind] at hbody
  | ok bits =>
    refine ⟨bits, rfl, ?_⟩
    cases hcap : withinCapacity s.params (rebuiltStuff bits) bits with
    | error e => simp [hrestuff, hcap, Except.bind, Except.map] at hbody
    | ok out =>
      obtain rfl := (withinCapacity_ok hcap).1
      exact ⟨rfl, by simpa [hrestuff, hcap, Except.bind, Except.map] using hbody.symm⟩

/-- UPDATE leaves a slot as `Restuff` leaves it. -/
theorem encoded_of_update {bf : BfIx} {flag : Bool} {s t : State} (hs : s.status.err = false)
    (h : exec (.update bf flag) s = .next t) (ht : t.status.err = false) :
    ∃ region field, Encoded (t.slot bf) flag region field := by
  obtain ⟨-, bits, hbits, -, rfl⟩ := update_completes hs h ht
  obtain ⟨-, herr⟩ | ⟨-, region, field, hparts, hok, -⟩ := restuff_cases (s.slot bf) flag
  · cases herr.symm.trans hbits
  · obtain rfl := Except.ok.inj (hok.symm.trans hbits)
    exact ⟨region, field, slot_setBits_same s bf _ ▸ (encoded_setBits hparts).1⟩

/-- UPDATE of a slot that is as it would leave it changes nothing. -/
theorem update_eq_self {bf : BfIx} {flag : Bool} {t : State} (ht : t.status.err = false) (hvalid : (t.slot bf).valid = true)
    (hrestuff : restuff (t.slot bf).snap flag (t.slot bf).bits = .ok (t.slot bf).bits)
    (hcap : withinCapacity t.params (rebuiltStuff (t.slot bf).bits) (t.slot bf).bits = .ok (t.slot bf).bits) :
    exec (.update bf flag) t = .next t := by
  refine (congrArg (command t) ?_).trans (command_ok ht)
  rw [withSlot_built hvalid, hrestuff, Except.bind, hcap, Except.map, setBits_self]

/-- The stuff bits of a frame part before a rest are what the capacity check of UPDATE looks at. -/
theorem rebuiltStuff_append {out rest : List BitRec} (hout : ∀ b ∈ out, b.tag.inFrame = true)
    (hrest : ∀ b ∈ rest.head?, b.tag.inFrame = false) : rebuiltStuff (out ++ rest) = out.filter BitRec.isStuff := by
  rw [rebuiltStuff, (takeWhile_dropWhile_append hout hrest).1]

/-- The capacity check as the statements write it (20_memory R67). -/
theorem withinCapacity_eq (c : Config.Params) (made bits : List BitRec) : withinCapacity c made bits =
    if c.maxBits < bits.length ∨ (made.any fun b => b.tooBig c) = true then .error .capacity else .ok bits := by
  simp [withinCapacity, fits_eq]

/-- Settles O48: `restuff_cases`, with the capacity check on the stuff bits of the new frame part. -/
theorem updateOutcome : Obligations.UpdateOutcome := by
  rintro bf flag s ⟨hs, hvalid⟩
  refine ⟨(EncodedOpcode.update bf flag).1, ?_⟩
  extract_lets f written
  have hexec : exec (.update bf flag) s = command s ((restuff f.snap flag f.bits).bind fun bits =>
      (withinCapacity s.params (rebuiltStuff bits) bits).map fun bits => s.setBits bf bits) :=
    congrArg (command s) (withSlot_built hvalid)
  obtain ⟨hlong, herr⟩ | ⟨hshort, region, field, hparts, hok, hsame⟩ := restuff_cases f flag
  · refine ⟨fun _ => ?_, fun hn => absurd hlong hn⟩
    rw [hexec, herr]
    exact command_error hs
  · refine ⟨fun hn => absurd hn hshort, fun _ => ⟨stuffed f.snap region field, hok, ?_, ?_, fun b hb =>
      ⟨hparts.inFrame b hb, hparts.fresh b hb⟩⟩⟩
    · rw [hexec, hok, Except.bind, rebuiltStuff_append hparts.inFrame (head_restBits f), withinCapacity_eq, List.any_filter,
        List.length_append, apply_ite (Except.map _)]
      exact ConfigFrame.command_check .capacity hs
    · rw [hparts.filter_stuffed]
      exact hsame

end Sys2Proof.Encoder
end


section
/-! BUILD (42_encoder R219, R233): the logical frame it starts from, its outcome and the slot it makes. -/

namespace Sys2Proof.Encoder

open Sys2Proof.Machine Sys2Proof.Laws Sys2Proof.Invariant

/-! ### The logical frame -/

/-- The bits of a logical frame before its CRC field. -/
def bodyFields (sn : Snap) (fr : Frame) : List BitRec :=
  arbitrationFields sn fr ++ controlFields sn fr ++ emitField sn .dlc (msbFirst fr.dlc)
    ++ emitField sn .data (fr.dataField.flatMap fun b => msbFirst b)

/-- Every bit of a list has a tag that passes the test. -/
def Tagged (q : Tag → Bool) (bits : List BitRec) : Prop :=
  ∀ b ∈ bits, q b.tag = true

theorem tagged_append {q : Tag → Bool} {l l' : List BitRec} : Tagged q (l ++ l') ↔ Tagged q l ∧ Tagged q l' :=
  List.forall_mem_append

theorem tagged_emitField {q : Tag → Bool} {t : Tag} (h : q t = true) (sn : Snap) (vs : List Level) :
    Tagged q (emitField sn t vs) :=
  List.forall_mem_map.mpr fun _ _ => h

/-- A frame tag that is none of the CRC field. -/
def isBodyTag (t : Tag) : Bool :=
  t.inFrame && !inCrcField t

theorem isBodyTag_iff {t : Tag} : isBodyTag t = true ↔ t.inFrame = true ∧ inCrcField t = false := by simp [isBodyTag]

/-- The bits before the CRC field have frame tags, and none of that field. -/
theorem tagged_bodyFields (sn : Snap) (fr : Frame) : Tagged isBodyTag (bodyFields sn fr) := by
  unfold bodyFields arbitrationFields controlFields
  dsimp only
  cases fr.flags.fdf <;> cases fr.flags.ide <;>
    simp [tagged_append, tagged_emitField, isBodyTag, inCrcField, Tag.inFrame, Tag.code]

/-- The CRC field of a logical frame, as three fields of which a Classical frame has only the last. -/
theorem crcPlaceholders_eq (sn : Snap) (fr : Frame) : crcPlaceholders sn fr =
    emitField sn .stuffCount (List.replicate (if fr.flags.fdf then 3 else 0) .dominant)
      ++ emitField sn .stuffParity (List.replicate (if fr.flags.fdf then 1 else 0) .dominant)
      ++ emitField sn .crc (List.replicate (crcWidth fr.flags.fdf fr.dlen) .dominant) := by
  unfold crcPlaceholders
  cases fr.flags.fdf <;> rfl

/-- The bits of the CRC field have its tags. -/
theorem tagged_crcPlaceholders (sn : Snap) (fr : Frame) : Tagged inCrcField (crcPlaceholders sn fr) := by
  rw [crcPlaceholders_eq]
  exact tagged_append.mpr
    ⟨tagged_append.mpr ⟨tagged_emitField rfl sn _, tagged_emitField rfl sn _⟩, tagged_emitField rfl sn _⟩

theorem inFrame_of_inCrcField {t : Tag} (h : inCrcField t = true) : t.inFrame = true := by
  obtain (rfl | rfl) | rfl : (t = .stuffCount ∨ t = .stuffParity) ∨ t = .crc := by simpa [inCrcField] using h
  all_goals rfl

/-- A slot that holds a logical frame not stuffed yet, as BUILD has it in between. -/
def unstuffed (sn : Snap) (fr : Frame) : BitFrame :=
  { valid := true, snap := sn, bits := logicalFrame sn fr }

@[simp] theorem unstuffed_snap (sn : Snap) (fr : Frame) : (unstuffed sn fr).snap = sn := rfl

/-- The frame part of a logical frame ends with its CRC field. -/
theorem split_unstuffed (sn : Snap) (fr : Frame) :
    plainBits (unstuffed sn fr) = bodyFields sn fr ++ crcPlaceholders sn fr ∧
      (unstuffed sn fr).restBits = trailingFields sn := by
  have hin : ∀ b ∈ bodyFields sn fr ++ crcPlaceholders sn fr, b.tag.inFrame = true :=
    List.forall_mem_append.mpr ⟨fun b hb => (isBodyTag_iff.mp (tagged_bodyFields sn fr b hb)).1,
      fun b hb => inFrame_of_inCrcField (tagged_crcPlaceholders sn fr b hb)⟩
  have hout : ∀ b ∈ (trailingFields sn).head?, b.tag.inFrame = false := by
    rintro _ ⟨⟩
    rfl
  obtain ⟨htake, hdrop⟩ := takeWhile_dropWhile_append hin hout
  refine ⟨?_, hdrop⟩
  rw [plainBits, show (unstuffed sn fr).prefixBits = _ from htake, List.filter_eq_self]
  intro b hb
  obtain ⟨t, v, rfl⟩ := logicalFrame_emitted sn fr b (List.mem_append_left _ hb)
  rfl

@[simp] theorem length_emitField (sn : Snap) (t : Tag) (vs : List Level) : (emitField sn t vs).length = vs.length :=
  List.length_map _

theorem ofTag_emitField_same (sn : Snap) (t : Tag) (vs : List Level) : ofTag t (emitField sn t vs) = emitField sn t vs := by
  simp [ofTag, emitField]

theorem ofTag_emitField_ne (sn : Snap) {t t' : Tag} (h : t' ≠ t) (vs : List Level) : ofTag t (emitField sn t' vs) = [] := by
  simp [ofTag, emitField, h]

/-- A logical frame has just the CRC field of its format (42_encoder R219, R225, R227). -/
theorem length_ofTag_logical (sn : Snap) (fr : Frame) :
    (ofTag .stuffCount (bodyFields sn fr ++ crcPlaceholders sn fr)).length = (if fr.flags.fdf then 3 else 0) ∧
      (ofTag .stuffParity (bodyFields sn fr ++ crcPlaceholders sn fr)).length = (if fr.flags.fdf then 1 else 0) ∧
      (ofTag .crc (bodyFields sn fr ++ crcPlaceholders sn fr)).length = crcWidth fr.flags.fdf fr.dlen := by
  have hbody : ∀ t, inCrcField t = true → ofTag t (bodyFields sn fr) = [] := fun t ht =>
    ofTag_eq_nil ht fun b hb => (isBodyTag_iff.mp (tagged_bodyFields sn fr b hb)).2
  simp only [ofTag_append, hbody .stuffCount rfl, hbody .stuffParity rfl, hbody .crc rfl]
  simp [crcPlaceholders_eq, ofTag_emitField_same, ofTag_emitField_ne]

/-- The data field of a frame holds at most the 64 bytes of its buffer. -/
theorem length_dataField_le (fr : Frame) : fr.dataField.length ≤ 64 := by
  unfold Frame.dataField
  split
  · exact Nat.zero_le _
  · rw [List.length_take, Vector.length_toList]
    exact Nat.min_le_right _ _

/-- A logical frame has at most 591 bits, as an extended FD frame with 64 data bytes has (42_encoder R233): up to 553 before
the CRC field, 25 in it and 13 after it. -/
theorem length_logicalFrame_le (sn : Snap) (fr : Frame) : (bodyFields sn fr).length ≤ 553 ∧
    (crcPlaceholders sn fr).length ≤ 25 ∧ (trailingFields sn).length = 13 := by
  have hdata := length_dataField_le fr
  refine ⟨?_, ?_, rfl⟩
  · unfold bodyFields arbitrationFields controlFields
    dsimp only
    cases fr.flags.fdf <;> cases fr.flags.ide <;> simp [flagLevel, List.length_flatMap] <;> omega
  · unfold crcPlaceholders crcWidth
    cases fr.flags.fdf <;> simp
    split <;> decide

/-- `Restuff` of a logical frame never fails: it has just the CRC field of its format (42_encoder R233). -/
theorem restuff_logicalFrame {sn : Snap} {fr : Frame} (hflags : sn.flags = fr.flags) (hdlen : sn.dlen = fr.dlen) :
    ∃ region field, Parts sn true region field ∧
      restuff sn true (logicalFrame sn fr) = .ok (stuffed sn region field ++ trailingFields sn) ∧
      SameBut (rewritten fr.flags.fdf true) (region ++ field) (bodyFields sn fr ++ crcPlaceholders sn fr) := by
  obtain ⟨hplain, hrest⟩ := split_unstuffed sn fr
  have hfits : ¬(unstuffed sn fr).crcFieldTooLong := by
    rw [← tooManyCrcFieldBits_iff, hplain]
    obtain ⟨hcount, hparity, hcrc⟩ := length_ofTag_logical sn fr
    simp only [tooManyCrcFieldBits, hcount, hparity, hcrc, unstuffed_snap, hflags, hdlen]
    cases fr.flags.fdf <;> simp
  obtain ⟨hlong, -⟩ | ⟨-, region, field, hparts, hok, hsame⟩ := restuff_cases (unstuffed sn fr) true
  · exact absurd hlong hfits
  · exact ⟨region, field, hparts, hrest ▸ hok, hflags ▸ hplain ▸ hsame⟩

/-! ### BUILD -/

/-- BUILD within its checks of the timings and the identifier (42_encoder R233). -/
theorem buildSlot_eq {c : Config.Params} {nbt dbt : BitTiming} {fr : Frame} (hnbt : nbt.valid = true)
    (hdbt : fr.flags.fdf = true → fr.flags.brs = true → dbt.valid = true)
    (hid : fr.flags.ide = false → fr.id.toNat < 2 ^ 11) :
    buildSlot c nbt dbt fr = (restuff (snapOf fr nbt dbt) true (logicalFrame (snapOf fr nbt dbt) fr)).bind fun bits =>
      (withinCapacity c bits bits).map fun bits => { valid := true, snap := snapOf fr nbt dbt, bits := bits } := by
  unfold buildSlot
  rw [if_neg (by simp [hnbt]), if_neg (by simpa using hdbt), if_neg (by simpa using hid)]

theorem buildSlot_yields (c : Config.Params) (nbt dbt : BitTiming) (fr : Frame) : Yields (buildSlot c nbt dbt fr) fun f =>
    f.valid = true ∧ f.snap = snapOf fr nbt dbt ∧ restuff f.snap true (logicalFrame f.snap fr) = .ok f.bits ∧
      withinCapacity c f.bits f.bits = .ok f.bits := by
  refine yields_check fun _ => yields_check fun _ => yields_check fun _ => yields_bind fun bits hbits =>
    yields_map fun out hout => ?_
  obtain rfl := (withinCapacity_ok hout).1
  exact ⟨rfl, rfl, hbits, hout⟩

/-- A BUILD that completes: the slot it makes, within the capacity check. -/
theorem build_completes {bf : BfIx} {fs : FsIx} {s t : State} (hs : s.status.err = false)
    (h : exec (.build bf fs) s = .next t) (ht : t.status.err = false) :
    ∃ f, t = s.setSlot bf f ∧ f.valid = true ∧ f.snap = snapOf (s.frame fs) s.nbt s.dbt ∧
      restuff f.snap true (logicalFrame f.snap (s.frame fs)) = .ok f.bits ∧
      withinCapacity s.params f.bits f.bits = .ok f.bits := by
  have hbody : (buildSlot s.params s.nbt s.dbt (s.frame fs)).map (fun f => s.setSlot bf f) = .ok t := body_eq_ok hs h ht
  cases hslot : buildSlot s.params s.nbt s.dbt (s.frame fs) with
  | error e => simp [hslot, Except.map] at hbody
  | ok f => exact ⟨f, by simpa [hslot, Except.map] using hbody.symm, buildSlot_yields _ _ _ _ f hslot⟩

/-- What a slot just built holds, of frame slot `fr` and the timing registers: its snapshot, a stuffed region and CRC field
that are the logical frame but for the values of the CRC field, and the trailing fields (42_encoder R233). -/
structure Built (fr : Frame) (f : BitFrame) (region field : List BitRec) : Prop extends Encoded f true region field where
  valid : f.valid = true
  flags : f.snap.flags = fr.flags
  dlen  : f.snap.dlen = fr.dlen
  same  : SameBut (rewritten fr.flags.fdf true) (region ++ field) (bodyFields f.snap fr ++ crcPlaceholders f.snap fr)
  rest  : f.restBits = trailingFields f.snap

/-- BUILD makes such a slot. -/
theorem built_of_build {bf : BfIx} {fs : FsIx} {s t : State} (hs : s.status.err = false)
    (h : exec (.build bf fs) s = .next t) (ht : t.status.err = false) :
    ∃ region field, Built (s.frame fs) (t.slot bf) region field := by
  obtain ⟨⟨_, sn, bits⟩, rfl, rfl, hsnap, hbits, -⟩ := build_completes hs h ht
  have hflags : sn.flags = (s.frame fs).flags := congrArg Snap.flags hsnap
  have hdlen : sn.dlen = (s.frame fs).dlen := congrArg Snap.dlen hsnap
  obtain ⟨region, field, hparts, hok, hsame⟩ := restuff_logicalFrame hflags hdlen
  obtain rfl := Except.ok.inj (hok.symm.trans hbits)
  obtain ⟨hencoded, hrest⟩ := encoded_setBits (f := unstuffed sn (s.frame fs)) hparts
  rw [(split_unstuffed sn (s.frame fs)).2] at hencoded hrest
  rw [slot_setSlot_same]
  exact ⟨region, field, hencoded, rfl, hflags, hdlen, hsame, hrest⟩

end Sys2Proof.Encoder
end

section
/-! The statements about BUILD's outcome and layout, and that UPDATE right after BUILD, or twice, changes nothing
(42_encoder R211 to R219, R233 to R235). -/

namespace Sys2Proof.Encoder

open Sys2Proof.Machine Sys2Proof.Laws Sys2Proof.Invariant

/-! ### The outcome of BUILD -/

theorem length_regStuff_le (sn : Snap) (last : Bool) (bits : List BitRec) :
    (regStuff sn last bits).length ≤ 2 * bits.length := by
  suffices hfrom : ∀ rv rl, (regStuffFrom sn last rv rl bits).length ≤ 2 * bits.length from hfrom none 0
  induction bits with
  | nil => simp [regStuffFrom]
  | cons b bits ih =>
    intro rv rl
    unfold regStuffFrom
    extract_lets rl'
    split
    · have hih := ih (some (flipLevel b.value)) 1
      simp only [List.length_cons]
      omega
    · have hih := ih (some b.value) rl'
      simp only [List.length_cons]
      omega

/-- Fixed stuffing puts one stuff bit before each position that is a multiple of 4 (42_encoder R223). -/
theorem length_fixStuffFrom (sn : Snap) (pv : Level) (j : Nat) (bits : List BitRec) :
    (fixStuffFrom sn pv j bits).length + (j + 3) / 4 = bits.length + (j + bits.length + 3) / 4 := by
  induction bits generalizing pv j with
  | nil => simp [fixStuffFrom]
  | cons b bits ih =>
    have hih := ih b.value (j + 1)
    unfold fixStuffFrom
    split <;> simp only [List.length_cons] <;> omega

/-- Stuffing at most doubles a list. -/
theorem length_stuffed_le (sn : Snap) (region field : List BitRec) :
    (stuffed sn region field).length ≤ 2 * (region ++ field).length := by
  have hregion : (stuffedRegion sn region field).length ≤ 2 * region.length := length_regStuff_le sn _ region
  have hfield := length_fixStuffFrom sn (lastValue (stuffedRegion sn region field)) 0 field
  simp only [stuffed, fixStuff, List.length_append]
  omega

/-- What every fresh bit has, every bit `Restuff` makes of a logical frame has. -/
theorem restuff_logicalFrame_inherits {sn : Snap} {fr : Frame} {P : BitRec → Prop} (hP : Inherited sn P)
    (hnew : ∀ t v, P (newBit sn t v)) {bits : List BitRec} (h : restuff sn true (logicalFrame sn fr) = .ok bits) :
    ∀ b ∈ bits, P b := by
  have hlogical : ∀ b ∈ logicalFrame sn fr, P b := fun b hb => by
    obtain ⟨t, v, rfl⟩ := logicalFrame_emitted sn fr b hb
    exact hnew t v
  obtain ⟨front, rfl, hfront⟩ :=
    restuff_inherits hP true (fun b hb => hlogical b ((List.takeWhile_sublist _).subset hb)) bits h
  exact List.forall_mem_append.mpr ⟨hfront, fun b hb => hlogical b ((List.dropWhile_sublist _).subset hb)⟩

theorem fresh_of_restuff_logicalFrame {sn : Snap} {fr : Frame} {bits : List BitRec}
    (h : restuff sn true (logicalFrame sn fr) = .ok bits) : ∀ b ∈ bits, b.fresh sn :=
  restuff_logicalFrame_inherits (fresh_inherited sn) (fun _ _ => rfl) h

/-- A fresh bit, of whatever stuff kind, has the room of the values of 00_scope R8 (20_memory R67). -/
theorem fits_of_fresh {c : Config.Params} (hc : c.Roomy) {sn : Snap} {b : BitRec} (h : b.fresh sn) : b.fits c = true := by
  rw [h]
  exact TimeQuanta.newBit_fits hc sn b.tag b.value

/-- Settles O41: the three checks in their order, then `restuff_logicalFrame` and the capacity check. -/
theorem buildOutcome : Obligations.BuildOutcome := by
  intro bf fs s hs
  have hexec : exec (.build bf fs) s = command s ((buildSlot s.params s.nbt s.dbt (s.frame fs)).map fun f => s.setSlot bf f) :=
    rfl
  refine ⟨(EncodedOpcode.build bf fs).1, fun htiming => ?_, ?_, ?_⟩
  · have hslot : buildSlot s.params s.nbt s.dbt (s.frame fs) = .error .timing := by
      unfold buildSlot
      obtain hnbt | hdbt := htiming
      · rw [if_pos hnbt]
      · rw [if_pos hdbt, ite_self]
    rw [hexec, hslot]
    exact command_error hs
  · rintro ⟨hnbt, hdbt, hid⟩
    have hslot : buildSlot s.params s.nbt s.dbt (s.frame fs) = .error .id := by
      unfold buildSlot
      rw [if_neg (by simp [hnbt]), if_neg (by simpa using hdbt), if_pos hid]
    rw [hexec, hslot]
    exact command_error hs
  · rintro ⟨hnbt, hdbt, hid⟩
    extract_lets fr sn
    obtain ⟨region, field, -, hok, hsame⟩ := restuff_logicalFrame (sn := sn) (fr := fr) rfl rfl
    refine ⟨_, hok, ?_, fun hroomy => ⟨?_, fun b hb => ?_⟩⟩
    · have hslot : buildSlot s.params s.nbt s.dbt fr = (restuff sn true (logicalFrame sn fr)).bind fun bits =>
          (withinCapacity s.params bits bits).map fun bits => { valid := true, snap := sn, bits := bits } :=
        buildSlot_eq hnbt hdbt hid
      rw [hok, Except.bind, withinCapacity_eq, apply_ite (Except.map _)] at hslot
      rw [hexec, hslot, apply_ite (Except.map _)]
      exact ConfigFrame.command_check .capacity hs
    · obtain ⟨hbody, hcrc, htrail⟩ := length_logicalFrame_le sn fr
      have hlen := length_stuffed_le sn region field
      rw [hsame.length_eq, List.length_append] at hlen
      rw [List.length_append]
      omega
    · have hfits := fits_of_fresh hroomy (fresh_of_restuff_logicalFrame hok b hb)
      simpa [fits_eq] using hfits

/-! ### Idempotence -/

/-- Settles O49: `Encoded.restuff_eq`, and the capacity check passes again, as the bits are those it let pass. -/
theorem updateIdempotent : Obligations.UpdateIdempotent := by
  constructor
  · intro bf flag s t hs h ht
    obtain ⟨region, field, hencoded⟩ := encoded_of_update hs h ht
    obtain ⟨hvalid, bits, -, hcap, rfl⟩ := update_completes hs h ht
    refine update_eq_self ht ?_ hencoded.restuff_eq ?_ <;> rw [slot_setBits_same]
    · exact hvalid
    · exact hcap
  · intro bf fs flag s t hs h ht
    obtain ⟨region, field, hbuilt⟩ := built_of_build hs h ht
    obtain ⟨f, rfl, -, -, -, hcap⟩ := build_completes hs h ht
    have hencoded : Encoded ((s.setSlot bf f).slot bf) flag region field :=
      ⟨hbuilt.mono fun _ => rfl, hbuilt.front⟩
    refine update_eq_self ht hbuilt.valid hencoded.restuff_eq ?_
    rw [slot_setSlot_same]
    exact withinCapacity_subset hcap fun b hb => (List.takeWhile_sublist _).subset (List.mem_of_mem_filter hb)

end Sys2Proof.Encoder
end

section
/-! The layout of a slot just built, field by field (42_encoder R211 to R219, R235). -/

namespace Sys2Proof.Encoder

open Sys2Proof.Machine Sys2Proof.Laws Sys2Proof.Invariant

/-- The tag and the value of a bit, as the statement of the layout lists them. -/
def tagValue (b : BitRec) : Tag × Level :=
  (b.tag, b.value)

theorem map_tagValue_emitField (sn : Snap) (t : Tag) (vs : List Level) :
    (emitField sn t vs).map tagValue = vs.map fun v => (t, v) := by
  simp [emitField, tagValue, Function.comp_def]

/-- A field on the wire is the value's bits, most significant first (42_encoder R211). -/
theorem fieldBits_eq (t : Tag) (w n : Nat) : fieldBits t w n = (msbFirst (BitVec.ofNat w n)).map fun v => (t, v) := by
  refine List.ext_getElem (by simp [fieldBits]) fun i hi _ => ?_
  have hlt : i < w := by simpa [fieldBits] using hi
  have hsub : w - 1 - i < w := by omega
  simp [fieldBits, msbFirst, BitVec.getMsbD, BitVec.getLsbD_ofNat, Level.ofBit, hlt, hsub]

theorem fieldBits_toNat (t : Tag) {w : Nat} (x : BitVec w) : fieldBits t w x.toNat = (msbFirst x).map fun v => (t, v) := by
  rw [fieldBits_eq, BitVec.ofNat_toNat, BitVec.setWidth_eq]

theorem fieldBits_extractLsb' (t : Tag) {n : Nat} (x : BitVec n) (lo w : Nat) :
    fieldBits t w (x.toNat / 2 ^ lo) = (msbFirst (x.extractLsb' lo w)).map fun v => (t, v) := by
  rw [fieldBits_eq, ← Nat.shiftRight_eq_div_pow]
  rfl

theorem fieldBits_flag (t : Tag) (b : Bool) : fieldBits t 1 b.toNat = (flagLevel b).map fun v => (t, v) := by
  cases b <;> rfl

theorem fieldBits_zero (t : Tag) : fieldBits t 1 0 = [(t, .dominant)] := rfl

theorem fieldBits_one (t : Tag) : fieldBits t 1 1 = [(t, .recessive)] := rfl

/-- The bits before the CRC field are the header, the DLC and the data of the frame (42_encoder R212 to R217). -/
theorem map_tagValue_bodyFields (sn : Snap) (fr : Frame) :
    (bodyFields sn fr).map tagValue = headerBits fr ++ payloadBits fr := by
  have hid : ∀ t w, fieldBits t w fr.id.toNat = (msbFirst (fr.id.extractLsb' 0 w)).map fun v => (t, v) := fun t w => by
    simpa using fieldBits_extractLsb' t fr.id 0 w
  have hheader : (arbitrationFields sn fr ++ controlFields sn fr).map tagValue = headerBits fr := by
    unfold arbitrationFields controlFields headerBits
    dsimp only
    cases fr.flags.fdf <;> cases fr.flags.ide <;>
      simp only [Bool.false_eq_true, if_false, if_true, List.map_append, map_tagValue_emitField, hid, fieldBits_extractLsb',
        fieldBits_flag, fieldBits_zero, fieldBits_one, List.map_cons, List.map_nil, List.append_assoc]
  have hpayload : (emitField sn .dlc (msbFirst fr.dlc) ++ emitField sn .data (fr.dataField.flatMap fun b => msbFirst b)).map
      tagValue = payloadBits fr := by
    simp only [payloadBits, Frame.dataField, List.map_append, map_tagValue_emitField, fieldBits_toNat,
      apply_ite (List.flatMap _), apply_ite (List.map _), List.map_flatMap, List.flatMap_nil, List.map_nil]
  rw [bodyFields, List.append_assoc, List.map_append, hheader, hpayload]

theorem map_tagValue_trailingFields (sn : Snap) : (trailingFields sn).map tagValue = trailerBits := by
  simp [trailingFields, map_tagValue_emitField, trailerBits]
  decide

theorem SameBut.split {p : Tag → Bool} {l a b : List BitRec} (h : SameBut p l (a ++ b)) :
    ∃ a' b', l = a' ++ b' ∧ SameBut p a' a ∧ SameBut p b' b :=
  List.map_eq_append_iff.mp (h.trans List.map_append)

/-- Bits that are a field but for its values are a field of that tag and length. -/
theorem SameBut.field {p : Tag → Bool} {sn : Snap} {t : Tag} {l : List BitRec} {vs : List Level}
    (h : SameBut p l (emitField sn t vs)) :
    l.map tagValue = (values l).map (fun v => (t, v)) ∧ (values l).length = vs.length := by
  refine ⟨?_, by rw [length_values, h.length_eq, length_emitField]⟩
  have htag : ∀ b ∈ l, b.tag = t := h.forall_tag_stuff (Q := fun t' _ => t' = t) (List.forall_mem_map.mpr fun _ _ => rfl)
  rw [values, List.map_map]
  exact List.map_congr_left fun b hb => Prod.ext (htag b hb) rfl

/-- `Restuff` writes no value of a bit before the CRC field. -/
theorem rewritten_of_isBodyTag {fdf r : Bool} {t : Tag} (h : isBodyTag t = true) : rewritten fdf r t = false := by
  have hnot := (isBodyTag_iff.mp h).2
  simp only [inCrcField, Bool.or_eq_false_iff] at hnot
  simp [rewritten, hnot]

theorem filter_trailingFields (sn : Snap) : (trailingFields sn).filter (fun b => b.stuff == .none) = trailingFields sn := rfl

theorem crcLength_eq (fr : Frame) : crcLength fr = crcWidth fr.flags.fdf fr.dlen := by
  unfold crcLength crcWidth
  cases fr.flags.fdf <;> simp

/-- Settles O42: the layout of the logical frame, in which `Restuff` writes only values of the CRC field. -/
theorem builtFrameLayout : Obligations.BuiltFrameLayout := by
  intro bf fs s t hs _ h ht
  obtain ⟨region, field, hbuilt⟩ := built_of_build hs h ht
  have hsame := hbuilt.same
  rw [crcPlaceholders_eq] at hsame
  obtain ⟨body, crcField, hsplit, hbody, hcrcField⟩ := hsame.split
  obtain ⟨counts, crc, rfl, hcounts, hcrc⟩ := hcrcField.split
  obtain ⟨count, parity, rfl, hcount, hparity⟩ := hcounts.split
  obtain rfl := hbody.eq fun b hb => rewritten_of_isBodyTag (tagged_bodyFields _ _ b hb)
  obtain ⟨hcount, hcountLen⟩ := hcount.field
  obtain ⟨hparity, hparityLen⟩ := hparity.field
  obtain ⟨hcrc, hcrcLen⟩ := hcrc.field
  refine ⟨values count, values parity, values crc, ?_, by simpa using hcountLen, by simpa using hparityLen, ?_, ?_⟩
  · change ((t.slot bf).bits.filter fun b => b.stuff == .none).map tagValue = _
    rw [hbuilt.bits_eq, List.filter_append, hbuilt.filter_stuffed, hbuilt.rest, filter_trailingFields, hsplit]
    simp only [List.map_append, map_tagValue_bodyFields, map_tagValue_trailingFields, hcount, hparity, hcrc, List.append_assoc]
  · rw [crcLength_eq, hcrcLen, List.length_replicate]
  · obtain ⟨f, rfl, -, -, hbits, -⟩ := build_completes hs h ht
    rw [slot_setSlot_same]
    exact fresh_of_restuff_logicalFrame hbits

end Sys2Proof.Encoder
end

section
/-! The CRC bits and the stuff count a slot holds after BUILD or UPDATE (42_encoder R225 to R230). -/

namespace Sys2Proof.Encoder

open Sys2Proof.Machine Sys2Proof.Laws Sys2Proof.Invariant

/-! ### The CRC register -/

/-- Settles O47, by running the registers. -/
theorem crcCheckValues : Obligations.CrcCheckValues := by
  unfold Obligations.CrcCheckValues
  decide +kernel

theorem crc_append {w : Nat} (poly init : BitVec w) (l l' : List Level) :
    crc poly init (l ++ l') = crc poly (crc poly init l) l' :=
  List.foldl_append

theorem msbFirst_take_succ {w k : Nat} (x : BitVec w) (hk : k < w) :
    (msbFirst x).take (k + 1) = (msbFirst x).take k ++ [Level.ofBit (x.getMsbD k)] := by
  rw [List.take_add_one]
  simp [msbFirst, hk]

/-- A register shifts its own leading bits out without the polynomial entering it. -/
theorem crc_take_msbFirst {w : Nat} (poly x : BitVec w) {k : Nat} (hk : k ≤ w) :
    crc poly x ((msbFirst x).take k) = x <<< k := by
  induction k with
  | zero => simp [crc]
  | succ k ih =>
    rw [msbFirst_take_succ x hk, crc_append, ih (Nat.le_of_succ_le hk), BitVec.shiftLeft_add]
    simp [crc, crcStep, BitVec.msb_shiftLeft]

/-- So all of its bits shifted in leave it 0. -/
theorem crc_msbFirst {w : Nat} (poly x : BitVec w) : crc poly x (msbFirst x) = 0 := by
  have htake := crc_take_msbFirst poly x (le_refl w)
  rwa [List.take_of_length_le (by simp), BitVec.shiftLeft_eq_zero (le_refl w)] at htake

/-- CRC bits that are the first ones of the register over the CRC input. -/
theorem crcFilled_of_prefix {f : BitFrame} {w : Nat} {poly init : BitVec w}
    (h : f.crcValues <+: msbFirst (crc poly init f.crcInput)) : f.crcFilled poly init := by
  refine ⟨by simpa using h.length_le, fun j v hv => ?_, fun hw => ?_⟩
  · obtain ⟨hj, rfl⟩ := List.getElem?_eq_some_iff.mp hv
    have hjw : j < w := by simpa using Nat.lt_of_lt_of_le hj h.length_le
    rw [h.getElem hj]
    simp [msbFirst, BitVec.getMsbD, hjw]
  · rw [crc_append, h.eq_of_length (by simpa using hw), crc_msbFirst]

/-! ### Where the bits of a stuffed list come from -/

theorem mem_regStuff {sn : Snap} {last : Bool} {bits : List BitRec} :
    ∀ b ∈ regStuff sn last bits, b ∈ bits ∨ ∃ a ∈ bits, b = stuffBit sn a.tag a.value .regular false := by
  suffices hfrom : ∀ rv rl, ∀ b ∈ regStuffFrom sn last rv rl bits,
      b ∈ bits ∨ ∃ a ∈ bits, b = stuffBit sn a.tag a.value .regular false from hfrom none 0
  induction bits with
  | nil => simp [regStuffFrom]
  | cons a bits ih =>
    intro rv rl
    have htail : ∀ rv rl, ∀ b ∈ regStuffFrom sn last rv rl bits,
        b ∈ a :: bits ∨ ∃ x ∈ a :: bits, b = stuffBit sn x.tag x.value .regular false := fun rv rl b hb =>
      (ih rv rl b hb).imp (List.mem_cons_of_mem a) fun ⟨x, hx, heq⟩ => ⟨x, List.mem_cons_of_mem a hx, heq⟩
    unfold regStuffFrom
    extract_lets rl'
    split
    · exact List.forall_mem_cons.mpr ⟨.inl List.mem_cons_self, List.forall_mem_cons.mpr
        ⟨.inr ⟨a, List.mem_cons_self, rfl⟩, htail _ _⟩⟩
    · exact List.forall_mem_cons.mpr ⟨.inl List.mem_cons_self, htail _ _⟩

theorem mem_fixStuffFrom {sn : Snap} {pv : Level} {j : Nat} {bits : List BitRec} :
    ∀ b ∈ fixStuffFrom sn pv j bits, b ∈ bits ∨ ∃ t v fsp, b = stuffBit sn t v .fixed fsp := by
  induction bits generalizing pv j with
  | nil => simp [fixStuffFrom]
  | cons a bits ih =>
    have htail : ∀ pv j, ∀ b ∈ fixStuffFrom sn pv j bits,
        b ∈ a :: bits ∨ ∃ t v fsp, b = stuffBit sn t v .fixed fsp :=
      fun pv j b hb => ih b hb |>.imp_left (List.mem_cons_of_mem a)
    unfold fixStuffFrom
    split
    · exact List.forall_mem_cons.mpr ⟨.inr ⟨_, _, _, rfl⟩,
        List.forall_mem_cons.mpr ⟨.inl List.mem_cons_self, htail _ _⟩⟩
    · exact List.forall_mem_cons.mpr ⟨.inl List.mem_cons_self, htail _ _⟩

section

variable {sn : Snap} {r : Bool} {region field : List BitRec} (h : Parts sn r region field)
include h

/-- A stuffed region has no fixed stuff bits. -/
theorem Parts.stuff_ne_fixed : ∀ b ∈ stuffedRegion sn region field, b.stuff ≠ .fixed := by
  intro b hb
  obtain hmem | ⟨a, -, rfl⟩ := mem_regStuff b hb
  · simp [(h.plain b (List.mem_append_left _ hmem)).1]
  · simp

/-- A stuffed region of an FD frame has no bits of the CRC field. -/
theorem Parts.before_stuffed (hfdf : sn.flags.fdf = true) : ∀ b ∈ stuffedRegion sn region field, inCrcField b.tag = false :=
  regStuff_inherits ⟨fun _ _ => id, fun _ _ => id, fun _ _ _ => id⟩ _ (h.before hfdf)

/-- A stuffed CRC field has no regular ones. -/
theorem Parts.stuff_ne_regular (pv : Level) (j : Nat) : ∀ b ∈ fixStuffFrom sn pv j field, b.stuff ≠ .regular := by
  intro b hb
  obtain hmem | ⟨t, v, fsp, rfl⟩ := mem_fixStuffFrom b hb
  · simp [(h.plain b (List.mem_append_right _ hmem)).1]
  · simp

end

/-! ### What a slot holds -/

section

variable {f : BitFrame} {r : Bool} {region field : List BitRec} (h : Encoded f r region field)
include h

theorem Encoded.crcValues_eq : f.crcValues = values (ofTag .crc (region ++ field)) := by
  rw [← h.plainBits_eq, plainBits, ofTag, List.filter_filter]
  rfl

/-- The bits of a slot that enter its CRC are those `Restuff` covers (42_encoder R228, R229). -/
theorem Encoded.crcInput_eq : f.crcInput = coveredValues f.snap region field := by
  unfold BitFrame.crcInput coveredValues
  cases hfdf : f.snap.flags.fdf with
  | false =>
    obtain rfl := h.classical hfdf
    have hfilter : f.prefixBits.filter (fun b => b.tag != .crc && b.stuff == .none) = notTag .crc region := by
      rw [← List.filter_filter, ← List.append_nil region, ← h.plainBits_eq]
      rfl
    simpa [values] using congrArg values hfilter
  | true =>
    have hregion : (stuffedRegion f.snap region field).filter
        (fun b => b.tag != .crc && (b.stuff == .none || b.stuff == .regular)) = stuffedRegion f.snap region field := by
      refine List.filter_eq_self.mpr fun b hb => ?_
      have hfixed := h.stuff_ne_fixed b hb
      have htag : b.tag ≠ .crc := fun heq => nomatch (heq ▸ h.before_stuffed hfdf b hb : inCrcField .crc = false)
      cases hstuff : b.stuff <;> simp_all
    have hfield : (fixStuffFrom f.snap (lastValue (stuffedRegion f.snap region field)) 0 field).filter
        (fun b => b.tag != .crc && (b.stuff == .none || b.stuff == .regular)) = notTag .crc field := by
      have hplain : ∀ b ∈ field, b.stuff = .none := fun b hb => (h.plain b (List.mem_append_right _ hb)).1
      conv_rhs => rw [notTag, ← filter_fixStuffFrom f.snap (lastValue (stuffedRegion f.snap region field)) 0 hplain,
        List.filter_filter]
      refine List.filter_congr fun b hb => ?_
      rw [beq_eq_false_iff_ne.mpr (h.stuff_ne_regular _ _ b hb), Bool.or_false]
    simp only [Bool.true_and, if_true, h.front, stuffed, fixStuff, List.filter_append, hregion, hfield, List.map_append]
    rfl

/-- The CRC bits of a slot are, as far as there are bits, the CRC of what its format covers. -/
theorem Encoded.crcValues_prefix (hr : r = true) :
    f.crcValues <+: crcBits f.snap.flags.fdf f.snap.dlen f.crcInput := by
  rw [h.crcValues_eq, h.crcInput_eq]
  exact h.crc hr

end

/-! ### The statements -/

/-- BUILD and UPDATE leave a slot as `Restuff` leaves it. -/
theorem encoded_of_exec {bf : BfIx} {i : Instr} {s t : State} (hs : s.status.err = false)
    (hi : (∃ fs, i = .build bf fs) ∨ ∃ flag, i = .update bf flag) (h : exec i s = .next t) (ht : t.status.err = false) :
    ∃ r region field, Encoded (t.slot bf) r region field := by
  obtain ⟨fs, rfl⟩ | ⟨flag, rfl⟩ := hi
  · obtain ⟨region, field, hbuilt⟩ := built_of_build hs h ht
    exact ⟨true, region, field, hbuilt.toEncoded⟩
  · exact ⟨flag, encoded_of_update hs h ht⟩

/-- Settles O46: the CRC bits are the first of the register's bits, all of them after BUILD. -/
theorem builtCrcLeavesZero : Obligations.BuiltCrcLeavesZero := by
  intro bf i s t hs hi h ht
  extract_lets f
  constructor
  · obtain ⟨region, field, hencoded⟩ : ∃ region field, Encoded f true region field := by
      obtain ⟨fs, rfl⟩ | rfl := hi
      · obtain ⟨region, field, hbuilt⟩ := built_of_build hs h ht
        exact ⟨region, field, hbuilt.toEncoded⟩
      · exact encoded_of_update hs h ht
    have hprefix := hencoded.crcValues_prefix rfl
    unfold crcBits at hprefix
    cases hfdf : f.snap.flags.fdf with
    | false =>
      rw [if_pos rfl]
      rw [hfdf, if_neg Bool.false_ne_true] at hprefix
      exact crcFilled_of_prefix hprefix
    | true =>
      rw [if_neg (by simp)]
      rw [hfdf, if_pos rfl] at hprefix
      split
      · next hlen =>
        rw [if_pos hlen] at hprefix
        exact crcFilled_of_prefix hprefix
      · next hlen =>
        rw [if_neg hlen] at hprefix
        exact crcFilled_of_prefix hprefix
  · rintro fs rfl
    obtain ⟨region, field, hbuilt⟩ := built_of_build hs h ht
    rw [hbuilt.crcValues_eq, length_values, hbuilt.same.length_ofTag, (length_ofTag_logical _ _).2.2, crcLength_eq]

theorem map_tagValue_ofTag (t : Tag) (l : List BitRec) :
    (ofTag t l).map tagValue = (values (ofTag t l)).map fun v => (t, v) := by
  rw [values, List.map_map]
  have htag : ∀ b ∈ ofTag t l, b.tag = t := fun b hb => by simpa using List.of_mem_filter hb
  exact List.map_congr_left fun b hb => Prod.ext (htag b hb) rfl

/-- The spec's tables of the stuff count and its parity are the Gray code and the parity the model computes (42_encoder
R225). -/
theorem fieldBits_grayCount (n : Nat) :
    fieldBits .stuffCount 3 ([0, 1, 3, 2, 6, 7, 5, 4].getD (n % 8) 0) =
        (msbFirst (grayCount n)).map (fun v => (.stuffCount, v)) ∧
      fieldBits .stuffParity 1 ([0, 1, 0, 1, 0, 1, 0, 1].getD (n % 8) 0) = [(.stuffParity, grayParity n)] := by
  have hmod : grayCount n = grayCount (n % 8) := by
    have hofNat : BitVec.ofNat 3 n = BitVec.ofNat 3 (n % 8) := BitVec.eq_of_toNat_eq (by simp)
    simp only [grayCount, hofNat]
  have htable : ∀ c < 8, fieldBits .stuffCount 3 ([0, 1, 3, 2, 6, 7, 5, 4].getD c 0) =
      (msbFirst (grayCount c)).map (fun v => (.stuffCount, v)) ∧
      fieldBits .stuffParity 1 ([0, 1, 0, 1, 0, 1, 0, 1].getD c 0) = [(.stuffParity, grayParity c)] := by
    decide
  have hparity : grayParity n = grayParity (n % 8) := by simp only [grayParity, hmod]
  rw [hmod, hparity]
  exact htable _ (Nat.mod_lt _ (by decide))

/-- Settles O45: the values `Restuff` fills in are those of the spec's tables. -/
theorem stuffCountField : Obligations.StuffCountField := by
  intro bf i s t hs hi h ht
  obtain ⟨r, region, field, hencoded⟩ := encoded_of_exec hs hi h ht
  extract_lets f c logical
  intro hfdf
  have hlogical : logical = region ++ field := hencoded.plainBits_eq
  have hof : ∀ tag, inCrcField tag = true → (logical.filter fun b => b.tag == tag).map (fun b => (b.tag, b.value)) =
      (values (ofTag tag field)).map fun v => (tag, v) := fun tag htag => by
    rw [hlogical, ← map_tagValue_ofTag, show (region ++ field).filter _ = ofTag tag (region ++ field) from rfl, ofTag_append,
      ofTag_eq_nil htag (hencoded.before hfdf), List.nil_append]
    rfl
  have hc : c = regularCount (stuffedRegion f.snap region field) % 8 := by
    rw [← hencoded.stuffRegion_eq]
    rfl
  obtain ⟨hcount, hparity⟩ := fieldBits_grayCount (regularCount (stuffedRegion f.snap region field))
  rw [hof _ rfl, hof _ rfl, hc, hcount, hparity]
  exact ⟨hencoded.count.map _, hencoded.parity.map _⟩

end Sys2Proof.Encoder
end

section
/-! Regular stuffing, by the length of the run of equal bits that ends at each place of the stuffed bits (42_encoder R220 to
R222, R235). -/

namespace Sys2Proof.Encoder

open Sys2Proof.Machine Sys2Proof.Laws Sys2Proof.Invariant

/-! ### Runs -/

/-- The length of the run of bits with value `v` that ends a list, where `n` such bits stand before it. -/
def runAfter (v : Level) (n : Nat) (bits : List BitRec) : Nat :=
  bits.foldl (fun n b => if b.value = v then n + 1 else 0) n

theorem runAfter_concat (v : Level) (n : Nat) (bits : List BitRec) (b : BitRec) :
    runAfter v n (bits ++ [b]) = if b.value = v then runAfter v n bits + 1 else 0 := by
  simp [runAfter]

theorem runAfter_take_succ {v : Level} {n k : Nat} {bits : List BitRec} {b : BitRec} (h : bits[k]? = some b) :
    runAfter v n (bits.take (k + 1)) = if b.value = v then runAfter v n (bits.take k) + 1 else 0 := by
  rw [List.take_add_one, h, Option.toList_some, runAfter_concat]

theorem runAt_succ {bits : List BitRec} {k n : Nat} {v : Level} :
    runAt bits k (n + 1) v ↔ runAt bits k n v ∧ ∃ b, bits[k + n]? = some b ∧ b.value = v := by
  unfold runAt
  constructor
  · exact fun h => ⟨fun j hj => h j (by omega), h n (Nat.lt_succ_self n)⟩
  · rintro ⟨hlt, hn⟩ j hj
    obtain hj | rfl := Nat.lt_succ_iff_lt_or_eq.mp hj
    · exact hlt j hj
    · exact hn

/-- Bits `k` to `k+n-1` are a run exactly where one of at least `n` bits ends there. -/
theorem runAt_iff {bits : List BitRec} {k n : Nat} {v : Level} (h : k + n ≤ bits.length) :
    runAt bits k n v ↔ n ≤ runAfter v 0 (bits.take (k + n)) := by
  induction n with
  | zero => simp [runAt]
  | succ n ih =>
    have hget : bits[k + n]? = some bits[k + n] := List.getElem?_eq_getElem (by omega)
    rw [runAt_succ, ih (by omega), ← Nat.add_assoc, runAfter_take_succ hget]
    split
    · next hv => simp [hget, hv]
    · next hv => simp [hget, hv]

theorem length_of_runAt {bits : List BitRec} {k n : Nat} {v : Level} (h : runAt bits k n v) (hn : 0 < n) :
    k + n ≤ bits.length := by
  obtain ⟨b, hb, -⟩ := h (n - 1) (by omega)
  have hlt := (List.getElem?_eq_some_iff.mp hb).1
  omega

/-! ### Stuffed bits -/

/-- The length of the run of bits with value `v` where the last bits were `rl` of value `rv`. -/
def runOf (rv : Option Level) (rl : Nat) (v : Level) : Nat :=
  if rv = some v then rl else 0

/-- Those lengths one bit later. -/
def runsAfter (n : Level → Nat) (b : BitRec) (v : Level) : Nat :=
  if b.value = v then n v + 1 else 0

/-- The length of the run a bit ends, given that of the last bits before it. -/
theorem runsAfter_runOf (rv : Option Level) (rl : Nat) (b : BitRec) :
    runsAfter (runOf rv rl) b = runOf (some b.value) (if rv = some b.value then rl + 1 else 1) := by
  funext v
  unfold runsAfter runOf
  by_cases hv : b.value = v
  · subst hv
    by_cases hrv : rv = some b.value <;> simp [hrv]
  · simp [hv]

/-- Bits, before which stand runs of the lengths `n`, with regular stuff bits as the rules put them: a run of five is
followed by its stuff bit, or it ends the bits where the last stuff bit is left out; a stuff bit follows a run of five; and
where the last one is left out, no stuff bit ends the bits (42_encoder R220 to R222). -/
structure RunStuffed (sn : Snap) (last : Bool) (n : Level → Nat) (out : List BitRec) : Prop where
  five  : ∀ (m : Nat) (b : BitRec), out[m]? = some b → 5 ≤ runAfter b.value (n b.value) (out.take (m + 1)) →
    out[m + 1]? = some (stuffBit sn b.tag b.value .regular false) ∨ (last = true ∧ out.length = m + 1)
  stuff : ∀ (m : Nat) (c : BitRec), out[m]? = some c → c.stuff = .regular →
    5 ≤ runAfter (flipLevel c.value) (n (flipLevel c.value)) (out.take m)
  ends  : last = true → ∀ b ∈ out.getLast?, b.stuff = .none

theorem runStuffed_nil (sn : Snap) (last : Bool) (n : Level → Nat) : RunStuffed sn last n [] :=
  ⟨nofun, nofun, nofun⟩

/-- One more bit in front. -/
theorem runStuffed_cons {sn : Snap} {last : Bool} {n : Level → Nat} {b : BitRec} {out : List BitRec}
    (h : RunStuffed sn last (runsAfter n b) out)
    (hfive : 5 ≤ n b.value + 1 → out[0]? = some (stuffBit sn b.tag b.value .regular false) ∨ (last = true ∧ out = []))
    (hstuff : b.stuff = .regular → 5 ≤ n (flipLevel b.value)) (hends : last = true → out = [] → b.stuff = .none) :
    RunStuffed sn last n (b :: out) where
  five m c hc hrun := by
    cases m with
    | zero =>
      obtain rfl : b = c := by simpa using hc
      exact (hfive (by simpa [runAfter] using hrun)).imp (by simp) (by simp)
    | succ m => simpa using h.five m c (by simpa using hc) hrun
  stuff m c hc hregular := by
    cases m with
    | zero =>
      obtain rfl : b = c := by simpa using hc
      exact hstuff hregular
    | succ m => exact h.stuff m c (by simpa using hc) hregular
  ends hlast c hc := by
    cases out with
    | nil =>
      obtain rfl : b = c := by simpa using hc
      exact hends hlast rfl
    | cons x out => exact h.ends hlast c (by simpa using hc)

theorem regStuffFrom_eq_nil {sn : Snap} {last : Bool} {rv : Option Level} {rl : Nat} {bits : List BitRec}
    (h : regStuffFrom sn last rv rl bits = []) : bits = [] := by
  cases bits with
  | nil => rfl
  | cons b bits =>
    unfold regStuffFrom at h
    extract_lets rl' at h
    split at h <;> cases h

/-- Regular stuffing puts the stuff bits as the rules say. -/
theorem regStuffFrom_runStuffed (sn : Snap) (last : Bool) {bits : List BitRec} (hplain : ∀ b ∈ bits, b.stuff = .none)
    (rv : Option Level) {rl : Nat} (hrl : rl ≤ 4) : RunStuffed sn last (runOf rv rl) (regStuffFrom sn last rv rl bits) := by
  induction bits generalizing rv rl with
  | nil => exact runStuffed_nil sn last _
  | cons b bits ih =>
    obtain ⟨hb, hbits⟩ := List.forall_mem_cons.mp hplain
    have hnone : b.stuff = .regular → 5 ≤ runOf rv rl (flipLevel b.value) := fun hregular => nomatch hb.symm.trans hregular
    have hrun := runsAfter_runOf rv rl b
    have hrunb : runOf rv rl b.value + 1 = if rv = some b.value then rl + 1 else 1 := by
      unfold runOf
      split <;> rfl
    unfold regStuffFrom
    extract_lets rl'
    have hrl' : rl' ≤ 5 := by unfold rl'; split <;> omega
    change runsAfter (runOf rv rl) b = runOf (some b.value) rl' at hrun
    change runOf rv rl b.value + 1 = rl' at hrunb
    split
    · next hstuffed =>
      obtain ⟨hfive, hnotLast⟩ := hstuffed
      refine runStuffed_cons ?_ (fun _ => .inl rfl) hnone nofun
      rw [hrun, hfive]
      refine runStuffed_cons ?_ ?_ ?_ ?_
      · rw [runsAfter_runOf]
        simpa [(flipLevel_ne b.value).symm] using ih hbits (some (flipLevel b.value)) (rl := 1) (by decide)
      · simp [runOf, (flipLevel_ne b.value).symm]
      · simp [runOf]
      · exact fun hlast hnil => absurd ⟨hlast, regStuffFrom_eq_nil hnil⟩ hnotLast
    · next hplainNext =>
      refine runStuffed_cons ?_ ?_ hnone fun _ _ => hb
      · rw [hrun]
        cases bits with
        | nil => exact runStuffed_nil sn last _
        | cons c bits =>
          have hne : rl' ≠ 5 := fun h5 => hplainNext ⟨h5, by simp⟩
          exact ih hbits (some b.value) (by omega)
      · intro h5
        obtain ⟨hlast, hnil⟩ : last = true ∧ bits = [] := by
          by_contra hnot
          exact hplainNext ⟨by omega, hnot⟩
        exact .inr ⟨hlast, by rw [hnil]; rfl⟩

/-! ### The region of a slot -/

theorem runAfter_le (v : Level) (n : Nat) (bits : List BitRec) : runAfter v n bits ≤ n + bits.length := by
  induction bits generalizing n with
  | nil => simp [runAfter]
  | cons b bits ih =>
    refine (ih (if b.value = v then n + 1 else 0)).trans ?_
    rw [List.length_cons]
    split <;> omega

theorem Parts.runStuffed {sn : Snap} {r : Bool} {region field : List BitRec} (h : Parts sn r region field) :
    RunStuffed sn (!field.isEmpty) (fun _ => 0) (stuffedRegion sn region field) := by
  have hplain := (List.forall_mem_append.mp h.plain).1
  have hfrom := regStuffFrom_runStuffed sn (!field.isEmpty) (fun b hb => (hplain b hb).1) none (Nat.zero_le 4)
  rwa [show runOf none 0 = fun _ => 0 by funext v; rfl] at hfrom

/-- Right behind the region stands a bit of the CRC field exactly where the slot has such a field. -/
theorem Encoded.crcField_iff {f : BitFrame} {r : Bool} {region field : List BitRec} (h : Encoded f r region field) :
    field ≠ [] ↔ ∃ c, f.bits[f.stuffRegion.length]? = some c ∧ inCrcField c.tag = true := by
  have hget : f.bits[f.stuffRegion.length]? =
      (fixStuffFrom f.snap (lastValue (stuffedRegion f.snap region field)) 0 field ++ f.restBits).head? := by
    conv_lhs => rw [h.bits_eq, h.stuffRegion_eq, stuffed, fixStuff, List.append_assoc]
    rw [List.getElem?_append_right le_rfl, Nat.sub_self, List.head?_eq_getElem?]
  rw [hget]
  cases field with
  | nil =>
    simp only [ne_eq, not_true, false_iff]
    rintro ⟨c, hc, hcrc⟩
    cases (inFrame_of_inCrcField hcrc).symm.trans (head_restBits f c hc)
  | cons b field =>
    simp only [ne_eq, reduceCtorEq, not_false_eq_true, true_iff]
    exact ⟨_, rfl, h.head b rfl⟩

/-- Settles O43: `RunStuffed` of the region, run by run. -/
theorem regularStuffing : Obligations.RegularStuffing := by
  intro bf i s t hs hi h ht
  extract_lets f
  obtain ⟨r, region, field, hencoded⟩ : ∃ r region field, Encoded f r region field := encoded_of_exec hs hi h ht
  clear_value f
  have hstuffed := hencoded.toParts.runStuffed
  have hlast : (!field.isEmpty) = true ↔ field ≠ [] := by simp
  rw [← hencoded.stuffRegion_eq] at hstuffed
  have hfive : ∀ k v, runAt f.stuffRegion k 5 v → ∃ b, f.stuffRegion[k + 4]? = some b ∧ b.value = v ∧
      (f.stuffRegion[k + 5]? = some (stuffBit f.snap b.tag v .regular false) ∨
        (field ≠ [] ∧ f.stuffRegion.length = k + 5)) := by
    intro k v hrun
    obtain ⟨b, hb, rfl⟩ := hrun 4 (by decide)
    have hend := (runAt_iff (length_of_runAt hrun (by decide))).mp hrun
    exact ⟨b, hb, rfl, (hstuffed.five (k + 4) b hb hend).imp_right (And.imp_left hlast.mp)⟩
  refine ⟨fun k v hrun => ?_, fun k v hrun => ?_, fun j c hc => ⟨?_, fun hregular => ?_⟩,
    fun j b c hfdf hlen hb hc hcrc => ?_⟩
  · obtain ⟨hrun5, c, hc, hv⟩ := runAt_succ.mp hrun
    obtain ⟨b, -, -, hnext | ⟨-, hlen⟩⟩ := hfive k v hrun5
    · obtain rfl := Option.some.inj (hnext.symm.trans hc)
      exact flipLevel_ne v hv
    · have hlt := length_of_runAt hrun (by decide)
      omega
  · obtain ⟨b, hb, -, hnext | ⟨hfield, hlen⟩⟩ := hfive k v hrun
    · exact .inl ⟨b, _, hb, hnext, rfl, rfl, rfl⟩
    · refine .inr ⟨?_, hlen, hlen ▸ hencoded.crcField_iff.mp hfield⟩
      by_contra hfdf
      exact hfield (hencoded.classical (by simpa using hfdf))
  · exact hencoded.stuff_ne_fixed c (hencoded.stuffRegion_eq ▸ List.mem_of_getElem? hc)
  · have hrun := hstuffed.stuff j c hc hregular
    have hlt := (List.getElem?_eq_some_iff.mp hc).1
    have hle := runAfter_le (flipLevel c.value) 0 (f.stuffRegion.take j)
    rw [List.length_take] at hle
    obtain ⟨k, rfl⟩ : ∃ k, j = k + 5 := ⟨j - 5, by omega⟩
    exact ⟨k, rfl, (runAt_iff hlt.le).mpr hrun⟩
  · have hfield := hencoded.crcField_iff.mpr ⟨c, hlen ▸ hc, hcrc⟩
    have hlt : j < f.stuffRegion.length := by omega
    have hbits : f.bits[j]? = some f.stuffRegion[j] := List.prefix_iff_getElem?.mp (List.takeWhile_prefix _) j hlt
    obtain rfl := Option.some.inj (hb.symm.trans hbits)
    refine hstuffed.ends (hlast.mpr hfield) _ ?_
    simp [List.getLast?_eq_getElem?, hlen]

end Sys2Proof.Encoder
end

section
/-! Fixed stuffing, place by place (42_encoder R221, R223, R224). -/

namespace Sys2Proof.Encoder

open Sys2Proof.Machine Sys2Proof.Laws Sys2Proof.Invariant

/-- Bit `b` at place `m` of the stuffed bits `out`, which follow a bit of value `pv` and start at place `p - m` of the CRC
field, is as fixed stuffing has it (42_encoder R221, R223, R224). -/
structure FixedAt (pv : Level) (out : List BitRec) (p m : Nat) (b : BitRec) : Prop where
  plain : p % 5 ≠ 0 → b.stuff = .none
  stuff : p % 5 = 0 → b.stuff = .fixed
  fsp   : p % 5 = 0 → b.fsp = decide (p / 5 % 2 = 1)
  value : p % 5 = 0 → ∀ u, (pv :: values out)[m]? = some u → b.value = flipLevel u
  tag   : p % 5 = 0 → ∃ c, out[m + 1]? = some c ∧ b.tag = c.tag

theorem fixedAt_cons {pv : Level} {out : List BitRec} {p m : Nat} {b c : BitRec} (h : FixedAt c.value out p m b) :
    FixedAt pv (c :: out) p (m + 1) b :=
  ⟨h.plain, h.stuff, h.fsp, h.value, by simpa using h.tag⟩

/-- From bit `j` of the field on, whose place is that of `j` bits and the stuff bits before them. -/
theorem fixStuffFrom_fixedAt (sn : Snap) {bits : List BitRec} (hplain : ∀ b ∈ bits, b.stuff = .none)
    (pv : Level) (j : Nat) :
    ∀ (m : Nat) (b : BitRec), (fixStuffFrom sn pv j bits)[m]? = some b →
      FixedAt pv (fixStuffFrom sn pv j bits) (j + (j + 3) / 4 + m) m b := by
  induction bits generalizing pv j with
  | nil => simp [fixStuffFrom]
  | cons x bits ih =>
    obtain ⟨hx, hbits⟩ := List.forall_mem_cons.mp hplain
    have htail := ih hbits x.value (j + 1)
    have hfield : ∀ pv m p, p % 5 ≠ 0 → FixedAt pv (x :: fixStuffFrom sn x.value (j + 1) bits) p m x := fun pv m p hp =>
      ⟨fun _ => hx, fun h0 => absurd h0 hp, fun h0 => absurd h0 hp, fun h0 => absurd h0 hp, fun h0 => absurd h0 hp⟩
    intro m b hb
    unfold fixStuffFrom at hb ⊢
    split
    · next hj =>
      rw [if_pos hj] at hb
      match m with
      | 0 =>
        obtain rfl := Option.some.inj hb
        have hp : j + (j + 3) / 4 + 0 = 5 * (j / 4) := by omega
        refine ⟨fun hne => absurd (by omega) hne, fun _ => rfl, fun _ => ?_, fun _ u hu => ?_, fun _ => ⟨x, rfl, rfl⟩⟩
        · rw [hp, Nat.mul_div_cancel_left _ (by decide)]
          exact beq_eq_decide _ _
        · obtain rfl := Option.some.inj hu
          rfl
      | 1 =>
        obtain rfl := Option.some.inj hb
        exact fixedAt_cons (hfield _ 0 _ (by omega))
      | m + 2 =>
        have hih := htail m b (by simpa using hb)
        rw [show j + (j + 3) / 4 + (m + 2) = j + 1 + (j + 1 + 3) / 4 + m by omega]
        exact fixedAt_cons (fixedAt_cons hih)
    · next hj =>
      rw [if_neg hj] at hb
      match m with
      | 0 =>
        obtain rfl := Option.some.inj hb
        exact hfield _ 0 _ (by omega)
      | m + 1 =>
        have hih := htail m b (by simpa using hb)
        rw [show j + (j + 3) / 4 + (m + 1) = j + 1 + (j + 1 + 3) / 4 + m by omega]
        exact fixedAt_cons hih

/-- The value before place `j` of a list put behind another, where there is a bit before it. -/
theorem value_before {l l' : List BitRec} {j : Nat} {a : BitRec} (hpos : l.length + j ≠ 0)
    (ha : (l ++ l')[l.length + j - 1]? = some a) : (lastValue l :: values l')[j]? = some a.value := by
  cases j with
  | zero =>
    have hlt : l.length - 1 < l.length := by omega
    rw [Nat.add_zero, List.getElem?_append_left hlt] at ha
    simp [lastValue, List.getLast?_eq_getElem?, ha]
  | succ j =>
    rw [show l.length + (j + 1) - 1 = l.length + j by omega, List.getElem?_append_right (by omega),
      Nat.add_sub_cancel_left] at ha
    simp [values, ha]

/-- The CRC field of an FD slot just built is that of the logical frame, but for its values. -/
theorem Built.field_sameBut {fr : Frame} {f : BitFrame} {region field : List BitRec} (h : Built fr f region field)
    (hfdf : f.snap.flags.fdf = true) : SameBut (rewritten fr.flags.fdf true) field (crcPlaceholders f.snap fr) := by
  obtain ⟨body, crcField, hsplit, hbody, hcrcField⟩ := h.same.split
  obtain rfl := hbody.eq fun b hb => rewritten_of_isBodyTag (tagged_bodyFields _ _ b hb)
  have htags : ∀ b ∈ crcField, inCrcField b.tag = true :=
    hcrcField.forall_tag_stuff (Q := fun t _ => inCrcField t = true) (tagged_crcPlaceholders f.snap fr)
  have hdrop := (takeWhile_dropWhile_append (p := fun b : BitRec => !inCrcField b.tag) (l := region) (l' := field)
    (fun b hb => by simp [h.before hfdf b hb]) fun b hb => by simp [h.head b hb]).2
  have hdrop' := (takeWhile_dropWhile_append (p := fun b : BitRec => !inCrcField b.tag) (l := bodyFields f.snap fr)
    (l' := crcField) (fun b hb => by simp [(isBodyTag_iff.mp (tagged_bodyFields _ _ b hb)).2])
    fun b hb => by simp [htags b (List.mem_of_mem_head? hb)]).2
  rwa [← hdrop, hsplit, hdrop']

/-- The CRC field of an FD slot just built has 21 or 25 bits, and 6 or 7 stuff bits before them (42_encoder R223). -/
theorem Built.length_prefixBits {fr : Frame} {f : BitFrame} {region field : List BitRec} (h : Built fr f region field)
    (hfdf : f.snap.flags.fdf = true) :
    f.prefixBits.length = f.stuffRegion.length + (if fr.dlen.toNat ≤ 16 then 27 else 32) := by
  have hfr : fr.flags.fdf = true := h.flags ▸ hfdf
  have hlen : field.length = 4 + if fr.dlen.toNat ≤ 16 then 17 else 21 := by
    simp [(h.field_sameBut hfdf).length_eq, crcPlaceholders_eq, hfr, crcWidth, ← Nat.add_assoc]
  have hstuffed := length_fixStuffFrom f.snap (lastValue f.stuffRegion) 0 field
  rw [h.front, stuffed, ← h.stuffRegion_eq, fixStuff, List.length_append]
  split <;> simp only [*, if_true, if_false] at hlen <;> omega

theorem fsp_inherited (sn : Snap) : Inherited sn fun b => b.fsp = true → b.stuff = .fixed :=
  ⟨fun _ _ => id, fun _ _ _ => nofun, fun _ _ _ _ _ => rfl⟩

/-- Settles O44: the places of the CRC field by `fixStuffFrom_fixedAt`, and BUILD's field by its length. -/
theorem fixedStuffing : Obligations.FixedStuffing := by
  intro bf i s t hs hi h ht
  extract_lets f n
  obtain ⟨r, region, field, hencoded⟩ : ∃ r region field, Encoded f r region field := encoded_of_exec hs hi h ht
  have hfront : f.prefixBits = f.stuffRegion ++ fixStuffFrom f.snap (lastValue f.stuffRegion) 0 field := by
    rw [hencoded.front, hencoded.stuffRegion_eq]
    rfl
  have hfixed : ∀ b ∈ f.stuffRegion, b.stuff ≠ .fixed := hencoded.stuffRegion_eq ▸ hencoded.stuff_ne_fixed
  refine ⟨fun hfdf => ?_, fun hfdf => ⟨?_, fun j b hb => ?_⟩, ?_⟩
  · obtain rfl := hencoded.classical hfdf
    simpa [hfront, fixStuffFrom] using hfixed
  · rwa [hfront, List.take_left' rfl]
  · rw [hfront, List.getElem?_append_right (Nat.le_add_right n j), Nat.add_sub_cancel_left] at hb
    obtain ⟨hplain, hstuff, hfsp, hvalue, htag⟩ := fixStuffFrom_fixedAt f.snap
      (fun b hb => (hencoded.plain b (List.mem_append_right _ hb)).1) (lastValue f.stuffRegion) 0 j b hb
    simp only [Nat.zero_add, Nat.reduceDiv] at hplain hstuff hfsp hvalue htag
    refine ⟨hplain, fun h0 => ⟨hstuff h0, hfsp h0, fun hn => ?_, fun a hn ha => ?_, ?_⟩⟩
    · refine hvalue h0 .recessive ?_
      obtain ⟨hregion, rfl⟩ : f.stuffRegion = [] ∧ j = 0 := by
        rw [← List.length_eq_zero_iff]
        omega
      rw [hregion]
      rfl
    · exact hvalue h0 _ (value_before hn (hfront ▸ ha))
    · obtain ⟨c, hc, htags⟩ := htag h0
      refine ⟨c, ?_, htags⟩
      rw [hfront, Nat.add_assoc, List.getElem?_append_right (Nat.le_add_right n _), Nat.add_sub_cancel_left, hc]
  · rintro fs rfl
    obtain ⟨region, field, hbuilt⟩ : ∃ region field, Built (s.frame fs) f region field := built_of_build hs h ht
    refine ⟨?_, hbuilt.rest ▸ fun b hb => ?_, fun hfdf => ⟨?_, ?_⟩⟩
    · obtain ⟨g, rfl, -, -, hbits, -⟩ := build_completes hs h ht
      unfold f
      rw [slot_setSlot_same]
      exact restuff_logicalFrame_inherits (fsp_inherited _) (fun _ _ => nofun) hbits
    · simpa using List.filter_eq_self.mp (filter_trailingFields f.snap) b hb
    · exact hbuilt.length_prefixBits hfdf
    · rw [← prefixBits_append_restBits, List.getElem?_append_right le_rfl, Nat.sub_self, hbuilt.rest]
      exact ⟨_, rfl, rfl⟩

end Sys2Proof.Encoder
end

section
/-! The words READ_BIT, READ_TQ and READ_CYCLE answer, field by field, and when a force shows in them (30_encoding R99,
43_queries R261 to R263). -/

namespace Sys2Proof.Queries

open Sys2Proof.Machine Sys2Proof.Laws Sys2Proof.RegisterMap Sys2Proof.TimeQuanta

/-! ### Result words, field by field -/

theorem bitWord_eq (b : BitRec) : b.word = 0#22 ++ BitVec.ofBool b.forced ++ BitVec.ofBool b.fsp ++ b.stuff.code
    ++ BitVec.ofBool b.value.bit ++ b.tag.code := by
  refine .trans ?_ (place_zero _)
  simp only [place_append]
  simp [place_zeros, BitRec.word, placeBit]

theorem countWord_eq (b : BitRec) : b.countWord = BitVec.ofNat 8 (b.count .ph2) ++ BitVec.ofNat 8 (b.count .ph1)
    ++ BitVec.ofNat 8 (b.count .prop) ++ BitVec.ofNat 8 (b.count .sync) := by
  refine .trans ?_ (place_zero _)
  simp only [place_append]
  simp [BitRec.countWord]

theorem tqWord_eq (b : BitRec) (q : Tq) : tqWord b q = BitVec.ofNat 16 q.len ++ 0#10 ++ BitVec.ofBool q.anyCyc
    ++ BitVec.ofBool (effTq b q).bit ++ BitVec.ofBool (q.tqf.getD .dominant).bit ++ BitVec.ofBool q.tqf.isSome
    ++ q.phase.code := by
  refine .trans ?_ (place_zero _)
  simp only [place_append]
  simp [place_zeros, tqWord, placeBit]

theorem cycleWord_eq (b : BitRec) (q : Tq) (c : Nat) :
    cycleWord b q c = 0#30 ++ BitVec.ofBool (q.cycForce c).isSome ++ BitVec.ofBool (effCycle b q c).bit := by
  refine .trans ?_ (place_zero _)
  simp only [place_append]
  simp [place_zeros, cycleWord, placeBit]

/-! ### Forces -/

theorem anyCyc_iff {q : Tq} : q.anyCyc = true ↔ ∃ c ∈ q.cyc, c ≠ none := by
  simp [Tq.anyCyc, Option.isSome_iff_ne_none]

theorem forced_iff {b : BitRec} : b.forced = true ↔ ∃ q ∈ b.tqs, q.tqf ≠ none ∨ ∃ c ∈ q.cyc, c ≠ none := by
  simp [BitRec.forced, anyCyc_iff, Option.isSome_iff_ne_none]

theorem bne_none_eq_isSome {α : Type} [DecidableEq α] (x : Option α) : (x != none) = x.isSome := by
  cases x <;> rfl

/-- A quantum's force is Recessive: the bit of the word that holds it is 0 also where there is none. -/
theorem beq_recessive_eq_bit (x : Option Level) : (x == some .recessive) = (x.getD .dominant).bit := by
  rcases x with _ | _ | _ <;> rfl

/-! ### The statement -/

/-- Settles O51: the words field by field, and the checks of bit, quantum and cycle. -/
theorem readOutResults : Obligations.ReadOutResults := by
  intro bf s hs
  have hrange : ∀ i : Instr, i.touches.bitAt = some bf → (s.slot bf).bits.length ≤ s.arg0.toNat →
      exec i s = .next (s.failed 0x0A) := fun i hi => bitBeyondEndRaisesRange i s bf hi hs
  refine ⟨(EncodedOpcode.readBit bf).1, (EncodedOpcode.readTq bf).1, (EncodedOpcode.readCycle bf).1,
    fun hlen => ⟨hrange _ rfl hlen, hrange _ rfl hlen, hrange _ rfl hlen⟩, fun b hb => ⟨fun forced hforced => ?_,
    fun hlen => ⟨?_, ?_⟩, fun q anycyc hq hany => ⟨?_, fun hlen => ?_, fun c hlen hc => ?_⟩⟩⟩
  · obtain rfl : forced = b.forced := Bool.eq_iff_iff.mpr (hforced.trans forced_iff.symm)
    refine command_atBit_ok hs hb ?_
    rw [bitWord_eq, countWord_eq]
    cases b.stuff <;> cases b.value <;> rfl
  · exact command_atBit_error .range hs hb (withTq_out hlen)
  · exact command_atBit_error .range hs hb (withTq_out hlen)
  · obtain rfl : anycyc = q.anyCyc := Bool.eq_iff_iff.mpr (hany.trans anyCyc_iff.symm)
    refine command_atBit_ok hs hb ((withTq_some hq).trans ?_)
    rw [tqWord_eq, beq_recessive_eq_bit, bne_none_eq_isSome]
    rfl
  · exact command_atBit_error .range hs hb ((withTq_some hq).trans (if_pos hlen))
  · refine command_atBit_ok hs hb ((withTq_some hq).trans ((if_neg (Nat.not_le.mpr hlen)).trans ?_))
    have hforce : q.cycForce s.arg2.toNat = c := by simp [Tq.cycForce, hc]
    rw [cycleWord_eq, effCycle, hforce, bne_none_eq_isSome]
    rfl

end Sys2Proof.Queries
end

section
/-! Selections of the bits of a slot, and the queries that count in them or take a bit of them (43_queries R250, R260, R264 to
R270). -/

namespace Sys2Proof.Queries

open Sys2Proof.Machine Sys2Proof.Laws Sys2Proof.TimeQuanta

/-! ### What a selection asks of a bit -/

theorem tagged_iff {t : Tag} {b : BitRec} : BitRec.tagged t b = true ↔ b.tag = t := beq_iff_eq

theorem logical_iff {t : Tag} {b : BitRec} : BitRec.logical t b = true ↔ b.tag = t ∧ b.stuff = .none := by
  simp [BitRec.logical]

theorem kindOk_iff {k : KindSel} {b : BitRec} : BitRec.kindOk k b = true ↔
    (k = .any ∧ b.stuff ≠ .none) ∨ (k = .regular ∧ b.stuff = .regular) ∨ (k = .fixed ∧ b.stuff = .fixed) := by
  cases k <;> simp [BitRec.kindOk]

theorem valOk_eq (v : Option Level) (b : BitRec) : BitRec.valOk v b = (v == none || v == some b.value) := by
  cases v <;> simp [BitRec.valOk, Bool.beq_comm]

theorem fieldOk_eq (t : Option Tag) (b : BitRec) : BitRec.fieldOk t b = (t == none || t == some b.tag) := by
  cases t <;> simp [BitRec.fieldOk, Bool.beq_comm]

theorem valOk_iff {v : Option Level} {b : BitRec} : BitRec.valOk v b = true ↔ v = none ∨ v = some b.value := by
  simp [valOk_eq]

/-! ### The elements of a selection -/

/-- A bit that satisfies the test stands in the selection after as many elements as there are such bits before it. -/
theorem indicesFrom_countP_take {p : BitRec → Bool} {bits : List BitRec} {i : Nat} {b : BitRec} (k : Nat)
    (hb : bits[i]? = some b) (hp : p b = true) : (indicesFrom p k bits)[(bits.take i).countP p]? = some (k + i) := by
  induction bits generalizing k i with
  | nil => cases hb
  | cons x xs ih =>
    cases i with
    | zero =>
      obtain rfl : x = b := by simpa using hb
      simp [indicesFrom, hp]
    | succ i =>
      have hrest := ih (k + 1) (by simpa using hb)
      rw [Nat.add_assoc, Nat.add_comm 1] at hrest
      by_cases hx : p x = true <;> simpa [indicesFrom, hx] using hrest

/-- Element `n` of a selection is the index of the `n`-th bit that satisfies the test (43_queries R250). -/
theorem nthOf_indices_ok {p : BitRec → Bool} {f : BitFrame} {n : Word} {x : Nat} (h : isNth p f.bits n.toNat x) :
    nthOf (f.indices p) n = .ok x := by
  obtain ⟨⟨b, hb, hp⟩, hn⟩ := h
  have hget : (f.indices p)[n.toNat]? = some x := by
    rw [← hn, BitFrame.indices, indicesFrom_countP_take 0 hb hp, Nat.zero_add]
  simp [nthOf, hget]

theorem nthOf_indices_error {p : BitRec → Bool} {f : BitFrame} {n : Word} (h : f.bits.countP p ≤ n.toNat) :
    nthOf (f.indices p) n = .error .field := by
  simp [nthOf, BitFrame.indices, h]

/-! ### A bit by its number in a selection -/

/-- What GET_BIT_OF, GET_BIT_OF_NS and GET_STUFF_BIT do, each with its own test (43_queries R265, R266, R268). -/
def nthBit (bf : BfIx) (p : BitRec → Bool) (s : State) : Except Err State :=
  withSlot s bf fun f => (nthOf (f.indices p) s.arg0).map fun x => s.setResult0 (natWord x)

/-- A test is known by when it holds. -/
theorem eq_of_iff {p q : BitRec → Bool} {P : BitRec → Prop} (hp : ∀ b, p b = true ↔ P b)
    (hq : ∀ b, q b = true ↔ P b) : p = q :=
  funext fun b => Bool.eq_iff_iff.mpr ((hp b).trans (hq b).symm)

/-- Settles O53: each command takes its bit by number from the selection of its test. -/
theorem selectionQueries : Obligations.SelectionQueries := by
  intro bf s hs i p hi
  have hexec : exec i s = command s (nthBit bf p s) := by
    obtain ⟨f, rfl, -, hp⟩ | ⟨f, rfl, -, hp⟩ | ⟨k, v, rfl, -, hp⟩ := hi
    · rw [eq_of_iff hp fun _ => tagged_iff]
      rfl
    · rw [eq_of_iff hp fun _ => logical_iff]
      rfl
    · rw [eq_of_iff hp fun b => (Bool.and_eq_true _ _).to_iff.trans (and_congr kindOk_iff valOk_iff)]
      rfl
  rw [hexec, nthBit, withSlot_built hs.2]
  refine ⟨fun hcount => ?_, fun x hx => ?_⟩
  · rw [nthOf_indices_error hcount]
    exact command_error hs.1
  · rw [nthOf_indices_ok hx]
    exact command_ok hs.1

/-! ### A drawn bit of a selection -/

/-- A draw from a selection that is not empty is the index of a bit that satisfies the test (43_queries R267). -/
theorem exists_pick {p : BitRec → Bool} {f : BitFrame} (h : ∃ b ∈ f.bits, p b = true) (d : Nat) :
    ∃ x b, pick (f.indices p) d = some x ∧ f.bits[x]? = some b ∧ p b = true := by
  have hpos : 0 < (f.indices p).length := by rwa [BitFrame.indices, length_indicesFrom, List.countP_pos_iff]
  have hpick : pick (f.indices p) d = some _ := List.getElem?_eq_getElem (Nat.mod_lt d hpos)
  obtain ⟨-, ⟨b, hb, hp⟩, -⟩ := indicesFrom_get hpick
  exact ⟨_, b, hpick, hb, hp⟩

theorem pick_none {p : BitRec → Bool} {f : BitFrame} (h : ∀ b ∈ f.bits, ¬p b = true) (d : Nat) :
    pick (f.indices p) d = none := by
  have hlen : (f.indices p).length = 0 := by rwa [BitFrame.indices, length_indicesFrom, List.countP_eq_zero]
  exact List.getElem?_eq_none (hlen.trans_le (Nat.zero_le _))

theorem candidate_iff {t : Tag} {v : Option Level} {b : BitRec} : (BitRec.logical t b && BitRec.valOk v b) = true ↔
    b.tag = t ∧ b.stuff = .none ∧ (v = none ∨ v = some b.value) := by
  rw [Bool.and_eq_true, logical_iff, valOk_iff, and_assoc]

/-- Settles O54: the candidates are the bits of the field, no stuff bits, that the filter lets pass. -/
theorem randomBitQuery : Obligations.RandomBitQuery := by
  intro bf f v s hs
  refine ⟨(EncodedOpcode.getRandomBitOf bf f v).1, fun hnone => ?_, fun ⟨b, hb, hp⟩ => ?_⟩
  · rw [exec, execGetRandomBitOf, withSlot_built hs.2, pick_none fun b hb hp => hnone b hb (candidate_iff.mp hp)]
    exact command_error hs.1
  · obtain ⟨x, b, hpick, hx, hp⟩ := exists_pick (p := fun b => BitRec.logical f b && BitRec.valOk v b)
      ⟨b, hb, candidate_iff.mpr hp⟩ (Config.drawIndex s.draws)
    obtain ⟨htag, hstuff, hval⟩ := candidate_iff.mp hp
    refine ⟨x, b, hx, htag, hstuff, hval, ?_⟩
    rw [exec, execGetRandomBitOf, withSlot_built hs.2, hpick]
    exact command_ok hs.1

/-! ### Counts -/

/-- A command that reads a built slot and answers a word in RESULT0. -/
theorem command_answer {s : State} {bf : BfIx} (hs : s.ready bf) (g : BitFrame → Word) :
    command s (withSlot s bf fun f => .ok (s.setResult0 (g f))) = .next (s.setResult0 (g (s.slot bf))) := by
  rw [withSlot_built hs.2, command_ok hs.1]

/-- Settles O50: each command answers its count or the index it was given, after the check of the bit where ARG0 names one. -/
theorem countingQueries : Obligations.CountingQueries := by
  intro bf s hs
  refine ⟨(EncodedOpcode.readLen bf).1, (EncodedOpcode.getBitIndex bf).1, (EncodedOpcode.bitCycles bf).1,
    command_answer hs _, ?_, bitBeyondEndRaisesRange _ s bf rfl hs, fun b hb => command_atBit_ok hs hb rfl,
    fun kind field val => ⟨(EncodedOpcode.getNumStuff bf kind field val).1, (command_answer hs _).trans ?_⟩⟩
  · split
    · next hlen => exact bitBeyondEndRaisesRange _ s bf rfl hs hlen
    · next hlen => exact command_atBit_ok hs (List.getElem?_eq_getElem (Nat.lt_of_not_le hlen)) rfl
  · simp only [valOk_eq, fieldOk_eq]
    rfl

end Sys2Proof.Queries
end

section
/-! The structural commands: bits put into a slot after their checks, and bits taken out of one (44_structural R289 to R295,
45_protocol_faults R318). -/

namespace Sys2Proof.Structural

open Sys2Proof.Machine Sys2Proof.Laws Sys2Proof.Encoder Sys2Proof.TimeQuanta Sys2Proof.Queries

/-! ### Bits put into a slot -/

/-- A body that leaves bits in a slot after the capacity check on them and on the fresh ones among them (20_memory R67). -/
theorem command_withinCapacity {s : State} (hs : s.status.err = false) (bf : BfIx) (made bits : List BitRec) :
    command s ((withinCapacity s.params made bits).map fun l => s.setBits bf l) = .next (
      if s.params.maxBits < bits.length ∨ (made.any fun b => b.tooBig s.params) = true then s.failed 0x0D
      else s.setBits bf bits) := by
  rw [withinCapacity_eq, apply_ite (Except.map _)]
  exact ConfigFrame.command_check .capacity hs

theorem insertIdx_eq_take_drop {α : Type} {l : List α} {n : Nat} (x : α) (h : n ≤ l.length) :
    l.insertIdx n x = l.take n ++ [x] ++ l.drop n := by
  obtain ⟨before, after, rfl, rfl, hinsert⟩ := List.exists_of_modifyTailIdx (List.cons x) h
  rw [List.insertIdx, hinsert, List.take_left, List.drop_left, List.append_assoc, List.singleton_append]

/-- A body that inserts a bit: the check of the position, then the capacity check (44_structural R290, R291). -/
theorem command_insertAt {s : State} (hs : s.status.err = false) (bf : BfIx) (made bits : List BitRec) (p : Word)
    (x : BitRec) : command s ((insertAt s.params made bits p x).map fun l => s.setBits bf l) = .next (
      if bits.length < p.toNat then s.failed 0x0A
      else if s.params.maxBits < bits.length + 1 ∨ (made.any fun b => b.tooBig s.params) = true then s.failed 0x0D
      else s.setBits bf (bits.take p.toNat ++ [x] ++ bits.drop p.toNat)) := by
  unfold insertAt
  split
  · exact command_error hs
  · next hp =>
    have hle : p.toNat ≤ bits.length := Nat.le_of_not_lt hp
    rw [command_withinCapacity hs, List.length_insertIdx_of_le_length hle, insertIdx_eq_take_drop x hle]

/-- Settles O55: `command_insertAt` with the fresh bit to check, or with none for a copy. -/
theorem insertResults : Obligations.InsertResults := by
  rintro bf s ⟨hs, hvalid⟩
  refine ⟨fun f v => ⟨(EncodedOpcode.insertBit bf f v).1, ?_⟩,
    fun bf2 hvalid2 => ⟨(EncodedOpcode.insertBitCopy bf bf2).1, fun hlen => ?_, fun x hx => ?_⟩⟩
  · rw [exec, execInsertBit, withSlot_built hvalid, command_insertAt hs]
    simp
  · rw [exec, execInsertBitCopy, withSlot_built hvalid, withSlot_built hvalid2, withBit_out hlen]
    exact command_error hs
  · rw [exec, execInsertBitCopy, withSlot_built hvalid, withSlot_built hvalid2, withBit_some hx, command_insertAt hs]
    simp

/-! ### A bit taken out of a slot -/

/-- Settles O56: by position the bit check decides, by field the selection of the field. -/
theorem removeBitResult : Obligations.RemoveBitResult := by
  intro bf s hs
  have hmismatch : command s (withSlot s bf fun _ => .error .arg) = .next (s.failed 0x02) := by
    rw [withSlot_built hs.2]
    exact command_error hs.1
  have hfield (f : Tag) : exec (.removeBit bf true (some f)) s = command s
      ((nthOf ((s.slot bf).indices fun b => b.tag == f) s.arg0).map fun x => s.setBits bf ((s.slot bf).bits.eraseIdx x)) :=
    congrArg (command s) (withSlot_built hs.2)
  simp only [← List.eraseIdx_eq_take_drop_succ]
  refine ⟨fun flag field => (EncodedOpcode.removeBit bf flag field).1, fun _ => hmismatch, hmismatch, ?_,
    fun f => ⟨fun hcount => ?_, fun x hx => ?_⟩⟩
  · split
    · next hlen => exact bitBeyondEndRaisesRange _ s bf rfl hs hlen
    · next hlen => exact command_atBit_ok hs (List.getElem?_eq_getElem (Nat.lt_of_not_le hlen)) rfl
  · rw [hfield, nthOf_indices_error hcount]
    exact command_error hs.1
  · rw [hfield, nthOf_indices_ok hx]
    exact command_ok hs.1

/-! ### Bits at the end of a slot -/

/-- Settles O57: `command_withinCapacity` with the fresh bits to check, none for a copy, and one check for the cut. -/
theorem appendAndTruncateResults : Obligations.AppendAndTruncateResults := by
  rintro bf s ⟨hs, hvalid⟩
  refine ⟨fun f v => ⟨(EncodedOpcode.appendBit bf f v).1, ?_⟩, fun bf2 hvalid2 => ⟨(EncodedOpcode.appendBf bf bf2).1, ?_⟩,
    (EncodedOpcode.appendSuspend bf).1, ?_, (EncodedOpcode.removeBitsFrom bf).1, ?_⟩
  · rw [exec, execAppendBit, withSlot_built hvalid, command_withinCapacity hs]
    simp
  · rw [exec, execAppendBf, withSlot_built hvalid, withSlot_built hvalid2, command_withinCapacity hs]
    simp
  · rw [exec, execAppendSuspend, withSlot_built hvalid, command_withinCapacity hs]
    simp
  · rw [exec, execRemoveBitsFrom, withSlot_built hvalid]
    exact ConfigFrame.command_check .range hs

end Sys2Proof.Structural
end

section
/-! The protocol-fault commands: error and overload frames put in place of the rest of a frame, the view of a receiver, and a
bit complemented (45_protocol_faults R310 to R317, R319). -/

namespace Sys2Proof.ProtocolFaults

open Sys2Proof.Machine Sys2Proof.Laws Sys2Proof.TimeQuanta Sys2Proof.Structural

/-! ### Error and overload frames -/

/-- The bits `InsFrame` adds: flag, delimiter and intermission (45_protocol_faults R311). -/
def insertedBits (sn : Snap) (ft : Tag) (fv : Level) (dt : Tag) : List BitRec :=
  List.replicate 6 (newBit sn ft fv) ++ List.replicate 8 (newBit sn dt .recessive)
    ++ List.replicate 3 (newBit sn .intermission .recessive)

theorem length_insertedBits (sn : Snap) (ft : Tag) (fv : Level) (dt : Tag) : (insertedBits sn ft fv dt).length = 17 := rfl

theorem insFrame_eq (c : Config.Params) (f : BitFrame) (p : Nat) (ft : Tag) (fv : Level) (dt : Tag) :
    insFrame c f p ft fv dt = if f.bits.length < p then .error .range
      else withinCapacity c (insertedBits f.snap ft fv dt) (f.bits.take p ++ insertedBits f.snap ft fv dt) := rfl

/-- Which of the three runs a bit added by `InsFrame` belongs to is known by its place (45_protocol_faults R311). -/
theorem eq_of_getElem?_insertedBits {sn : Snap} {ft dt : Tag} {fv : Level} {j : Nat} {b : BitRec}
    (h : (insertedBits sn ft fv dt)[j]? = some b) : b = if j < 6 then newBit sn ft fv
      else if j < 14 then newBit sn dt .recessive else newBit sn .intermission .recessive := by
  simp only [insertedBits, List.getElem?_append, List.length_append, List.length_replicate, List.getElem?_replicate] at h
  by_cases h6 : j < 6
  · have h14 : j < 14 := by omega
    simpa [h6, h14, eq_comm] using h
  · by_cases h14 : j < 14
    · have h8 : j - 6 < 8 := by omega
      simpa [h6, h14, h8, eq_comm] using h
    · simp only [h6, h14, if_false] at h ⊢
      obtain ⟨-, hb⟩ := Option.ite_none_right_eq_some.mp h
      exact (Option.some.inj hb).symm

/-- A body that puts an error or overload frame into a slot: the check of the position, then the capacity check
(45_protocol_faults R311). -/
theorem command_insFrame {s : State} (hs : s.status.err = false) (bf : BfIx) (f : BitFrame) (p : Nat) (ft : Tag)
    (fv : Level) (dt : Tag) : command s ((insFrame s.params f p ft fv dt).map fun l => s.setBits bf l) = .next (
      if f.bits.length < p then s.failed 0x0A
      else if s.params.maxBits < p + 17 ∨ ((insertedBits f.snap ft fv dt).any fun b => b.tooBig s.params) = true then
        s.failed 0x0D
      else s.setBits bf (f.bits.take p ++ insertedBits f.snap ft fv dt)) := by
  rw [insFrame_eq]
  split
  · exact command_error hs
  · next hp =>
    rw [command_withinCapacity hs, List.length_append, length_insertedBits, List.length_take_of_le (Nat.le_of_not_lt hp)]

/-- Settles O58: the three commands are `InsFrame` with their own flag and delimiter. -/
theorem insertFrameResults : Obligations.InsertFrameResults := by
  intro bf s i ft fv dt hs hi
  have hexec : exec i s = command s (withSlot s bf fun f =>
      (insFrame s.params f s.arg0.toNat ft fv dt).map fun l => s.setBits bf l) := by
    obtain ⟨rfl, -, rfl, rfl, rfl⟩ | ⟨rfl, -, rfl, rfl, rfl⟩ | ⟨rfl, -, rfl, rfl, rfl⟩ := hi <;> rfl
  refine ⟨insertedBits (s.slot bf).snap ft fv dt, length_insertedBits .., ?_, fun j b => eq_of_getElem?_insertedBits⟩
  rw [hexec, withSlot_built hs.2, command_insFrame hs.1]

/-! ### The view of a receiver -/

/-- Bits of which those from index `k` on are as a receiver drives them. -/
theorem getElem?_received_from {bits : List BitRec} {j : Nat} {b : BitRec} (k : Nat) (hb : bits[j]? = some b) :
    (bits.take k ++ (bits.drop k).map BitRec.received)[j]? = some (if j < k then b else b.received) := by
  obtain ⟨hlt, -⟩ := List.getElem?_eq_some_iff.mp hb
  by_cases hj : j < k
  · rw [List.getElem?_append_left (by rw [List.length_take]; omega), List.getElem?_take_of_lt hj, hb, if_pos hj]
  · have hk : (bits.take k).length = k := List.length_take_of_le (by omega)
    rw [List.getElem?_append_right (by omega), hk, List.getElem?_map, List.getElem?_drop,
      Nat.add_sub_cancel' (Nat.le_of_not_lt hj), hb, if_neg hj]
    rfl

/-- Settles O59: TURN_RX makes the bits those of a receiver from index 0 on, LOOSE_ARB from ARG0 on. -/
theorem receiverViewResults : Obligations.ReceiverViewResults := by
  intro bf s hs
  refine ⟨(EncodedOpcode.turnRx bf).1, (EncodedOpcode.looseArb bf).1, bitBeyondEndRaisesRange _ s bf rfl hs,
    fun i k hik => ⟨(s.slot bf).bits.take k ++ ((s.slot bf).bits.drop k).map BitRec.received, ?_, ?_,
      fun j b => getElem?_received_from k⟩⟩
  · obtain ⟨rfl, rfl⟩ | ⟨rfl, rfl, hlt⟩ := hik
    · rw [exec, execTurnRx, withSlot_built hs.2]
      exact command_ok hs.1
    · exact command_atBit_ok hs (List.getElem?_eq_getElem hlt) rfl
  · rw [List.length_append, List.length_map, ← List.length_append, List.take_append_drop]

/-! ### A bit complemented -/

/-- Without a Ph2 quantum the compensation is a quantum of its own (45_protocol_faults R317). -/
theorem compensateBit_of_no_ph2 {c : Config.Params} {b : BitRec} (d : Nat) (h : b.count .ph2 = 0) :
    compensateBit c b d = if c.maxTqCycles < d then .error .capacity
      else .ok { b.flip with tqs := if d = 0 then b.tqs else b.tqs ++ [newTq .ph2 d] } := by
  rw [compensateBit, last_none.mpr h]

theorem extend_zero (q : Tq) : q.extend 0 = q := by
  simp [Tq.extend]

/-- The compensation lengthens the last Ph2 quantum; by 0 cycles it leaves it (45_protocol_faults R317). -/
theorem compensateBit_of_last {c : Config.Params} {b : BitRec} {k : Nat} {q : Tq} (d : Nat) (hk : isLastOf .ph2 b.tqs k)
    (hq : b.tqs[k]? = some q) : compensateBit c b d = if c.maxTqCycles < q.len + d then .error .capacity
      else .ok { b.flip with tqs := b.tqs.set k (q.extend d) } := by
  have htqs : (if d = 0 then b.tqs else b.tqs.modify k (Tq.extend · d)) = b.tqs.set k (q.extend d) := by
    rw [modify_of_getElem? _ hq]
    split
    · next hd =>
      obtain ⟨hlt, rfl⟩ := List.getElem?_eq_some_iff.mp hq
      rw [hd, extend_zero, List.set_getElem_self]
    · rfl
  rw [compensateBit, last_of_isLastOf hk, ← htqs]
  simp only [hq, Option.map_some, Option.getD_some, gt_iff_lt]

/-- A body that edits a bit after one check on it. -/
theorem command_editCheck {s : State} {p : Prop} [Decidable p] (hs : s.status.err = false) (bf : BfIx) (e : Err)
    (b : BitRec) : command s ((if p then .error e else .ok b : Except Err BitRec).map fun b' => s.setBit bf s.arg0 b') =
      .next (if p then s.failed e.code else s.setBit bf s.arg0 b) := by
  rw [apply_ite (Except.map _)]
  exact ConfigFrame.command_check e hs

/-- Settles O60: FLIP_COMP by the two forms of the compensation, each with its capacity check. -/
theorem flipResults : Obligations.FlipResults := by
  intro bf s hs
  refine ⟨(EncodedOpcode.flipBit bf).1, (EncodedOpcode.flipComp bf).1,
    fun hlen => ⟨bitBeyondEndRaisesRange _ s bf rfl hs hlen, bitBeyondEndRaisesRange _ s bf rfl hs hlen⟩, fun b hb => ?_⟩
  have hcomp : exec (.flipComp bf) s =
      command s ((compensateBit s.params b s.arg1.toNat).map fun b' => s.setBit bf s.arg0 b') := command_atBit hs hb
  refine ⟨command_atBit_ok hs hb rfl, fun hcount => ?_, fun k q hk hq => ?_⟩
  · rw [hcomp, compensateBit_of_no_ph2 _ hcount]
    exact command_editCheck hs.1 bf .capacity _
  · rw [hcomp, compensateBit_of_last _ hk hq]
    exact command_editCheck hs.1 bf .capacity _

end Sys2Proof.ProtocolFaults
end

section
/-! Failing, dropping and warning: what a word leaves while `ERR` is 1, what it leaves where it records an error, and who
sets and clears the warnings (60_exceptions R340 to R343). -/

namespace Sys2Proof.Exceptions

open Sys2Proof.Machine Sys2Proof.Laws Sys2Proof.Invariant Sys2Proof.HostSide Sys2Proof.Effects Sys2Proof.RegisterMap

/-! ### Dropping -/

theorem exec_dropped {s : State} (i : Instr) (hs : s.status.err = true) : exec i s = .next (dropCommand s) := by
  obtain ⟨body, hbody, -⟩ := exec_runs i s
  exact hbody.trans (command_drop hs)

/-- Every word is dropped, whether it decodes or not and whether or not the block has the slots it names. -/
theorem runWord_dropped {s : State} (w : Word) (hs : s.status.err = true) : runWord w s = .next (dropCommand s) := by
  cases hw : decode w with
  | error e => exact (runWord_error hw).trans (command_drop hs)
  | ok i =>
    cases hb : slotsExist s.params w i with
    | true => exact (runWord_exec hw hb).trans (exec_dropped i hs)
    | false => exact (runWord_absent hw hb).trans (if_pos hs)

/-- A read of 32 bits is admitted at a multiple of 4 (20_memory R61). -/
theorem serve_read_word (s : State) (a : Addr) : serve (.read a 4) s =
    if a.toNat % 4 = 0 then .next { s with readData := readAt s a } else .fault (.notAdmitted a 4) := by
  simp [serve, admitted]

/-- Settles O8: both the command and the word are dropped, and no other access asks for `ERR`. -/
theorem droppedWhileErr : Obligations.DroppedWhileErr := fun s hs =>
  ⟨fun i => exec_dropped i hs, fun w => runWord_dropped w hs, serve_read_word s,
    fun v => ⟨writeAt_offset .arg0 v trivial nofun, writeAt_offset .arg1 v trivial nofun,
      writeAt_offset .arg2 v trivial nofun, writeAt_offset .arg3 v trivial nofun,
      writeAt_offset .statusClr v trivial nofun⟩,
    fun f hf => ⟨fun v => writeAt_offset (.rand f) v hf nofun, fun w v => writeAt_offset (.data f w) v hf nofun⟩⟩

/-! ### Failing -/

theorem one_le_code (e : Err) : 1 ≤ e.code.toNat :=
  Nat.one_le_iff_ne_zero.mpr fun h => code_ne_zero e (BitVec.eq_of_toNat_eq h)

/-- Settles O9: a word that ran with `ERR` 0 and left it 1 neither was dropped nor completed. -/
theorem failingCommandIsPrecise : Obligations.FailingCommandIsPrecise := by
  intro w s t hs h ht
  obtain ⟨herr, -⟩ | ⟨-, i, -, hcompletes⟩ | ⟨-, e, rfl⟩ := runWord_cases h
  · cases hs.symm.trans herr
  · cases (hcompletes.err.trans hs).symm.trans ht
  · exact ⟨e.code, one_le_code e, code_le e, rfl⟩

/-! ### Warnings -/

/-- The warnings of `t` are those of `s`. -/
def SameWarnings (s t : State) : Prop :=
  t.status.wRtrFd = s.status.wRtrFd ∧ t.status.wBrsCl = s.status.wBrsCl ∧ t.status.wEsiCl = s.status.wEsiCl

theorem sameWarnings_of_status {s t : State} (h : t.status = s.status) : SameWarnings s t := by
  simp [SameWarnings, h]

/-- An operand of SET_FLAGS below 32 has no bit above the five flags. -/
theorem extractLsb'_eq_zero {v : Word} (h : v.toNat < 32) : v.extractLsb' 5 27 = 0 := by
  apply BitVec.eq_of_toNat_eq
  simp [BitVec.extractLsb'_toNat, Nat.shiftRight_eq_div_pow, Nat.div_eq_of_lt h]

/-- What SET_FLAGS leaves where its operand is five flags (40_config_frame R134). -/
def afterSetFlags (fs : FsIx) (s : State) : State :=
  { s.setFrame fs ((s.frame fs).withFlags (FrameFlags.ofWord s.arg0).normalize) with
    status := s.status.warned (FrameFlags.ofWord s.arg0) }

theorem exec_setFlags {s : State} (fs : FsIx) (hs : s.status.err = false) : exec (.setFlags fs) s =
    .next (if s.arg0.extractLsb' 5 27 ≠ 0 then s.failed Err.arg.code else afterSetFlags fs s) :=
  ConfigFrame.command_check .arg hs

/-- A word that is not dropped and has a next state runs the command it decodes to. -/
theorem exec_of_runWord {w : Word} {i : Instr} {s t : State} (hw : decode w = .ok i) (hs : s.status.err = false)
    (h : runWord w s = .next t) : exec i s = .next t := by
  cases hb : slotsExist s.params w i with
  | true => exact (runWord_exec hw hb).symm.trans h
  | false =>
    rw [runWord_absent hw hb, hs] at h
    cases h

/-- Everything a word can do to the warnings: leave them, or, as SET_FLAGS, set those of the flags it corrects. -/
theorem runWord_warnings {w : Word} {s t : State} (h : runWord w s = .next t) :
    SameWarnings s t ∨ ∃ fs, decode w = .ok (.setFlags fs) ∧ t = afterSetFlags fs s := by
  obtain ⟨-, rfl⟩ | ⟨hs, i, hw, hcompletes⟩ | ⟨-, e, rfl⟩ := runWord_cases h
  · exact .inl ⟨rfl, rfl, rfl⟩
  · by_cases hi : ∃ fs, i = .setFlags fs
    · obtain ⟨fs, rfl⟩ := hi
      cases (exec_setFlags fs hs).symm.trans (exec_of_runWord hw hs h)
      split
      · exact .inl ⟨rfl, rfl, rfl⟩
      · exact .inr ⟨fs, hw, rfl⟩
    · exact .inl (sameWarnings_of_status (hcompletes.status (not_exists.mp hi)))
  · exact .inl ⟨rfl, rfl, rfl⟩

theorem writeReg_status {s : State} {v : Word} {r : Reg} (hr : r ≠ .statusClr) : (writeReg s v r).status = s.status := by
  cases r with
  | statusClr => exact absurd rfl hr
  | _ => rfl

/-- A host write elsewhere than at CMD and STATUS_CLR leaves the status. -/
theorem writeAt_status {a : Addr} {v : Word} {s t : State} (hcmd : a ≠ 0x000) (hclr : a ≠ 0x008)
    (h : writeAt a v s = .next t) : t.status = s.status := by
  cases ha : regAt s.params a with
  | none =>
    cases (writeAt_of_regAt_none v ha).symm.trans h
    rfl
  | some r =>
    have haddr : a.toNat = offset r := (offset_of_regAt ha).1
    have hr : r ≠ .cmd := by
      rintro rfl
      exact hcmd (BitVec.eq_of_toNat_eq haddr)
    cases (writeAt_of_regAt r v ha hr).symm.trans h
    refine writeReg_status ?_
    rintro rfl
    exact hclr (BitVec.eq_of_toNat_eq haddr)

/-- Settles O26: SET_FLAGS by its equation, the words by `runWord_warnings` and the host's writes by `writeAt_status`. -/
theorem warningsAreSticky : Obligations.WarningsAreSticky := by
  refine ⟨fun fs s hs harg => ?_, fun w s t h => ?_, fun a v s t hcmd hclr => writeAt_status hcmd hclr⟩
  · have hexec : exec (.setFlags fs) s = .next (afterSetFlags fs s) := by
      rw [exec_setFlags fs hs, if_neg (not_not_intro (extractLsb'_eq_zero harg))]
    exact ⟨_, hexec, hs, rfl, rfl, rfl⟩
  · obtain ⟨hrtr, hbrs, hesi⟩ | ⟨fs, hw, rfl⟩ := runWord_warnings h
    · exact ⟨hrtr.trans, hbrs.trans, hesi.trans, fun _ => ⟨hrtr, hbrs, hesi⟩⟩
    · exact ⟨Bool.or_eq_true_iff.mpr ∘ .inl, Bool.or_eq_true_iff.mpr ∘ .inl, Bool.or_eq_true_iff.mpr ∘ .inl,
        fun hne => absurd hw (hne fs)⟩

end Sys2Proof.Exceptions
end
